-- ==== Sys2Proof/Word.lean ====
section
/-! DEFINITION. The word types of the control core: bit 0 is the least significant bit (rule R16). -/

namespace Sys2Proof

/-- A received serial byte, or a ring-buffer cell (R100, R36). -/
abbrev Byte := BitVec 8

/-- The value of a MIDI data byte, a CC number or a CC value, 0..127 (R101). -/
abbrev Data7 := BitVec 7

/-- An operation word, OPW (R107). -/
abbrev OpWord := BitVec 24

/-- One configuration ROM word (R40). -/
abbrev CfgWord := BitVec 32

/-- One bit per slot, bit `s` for slot `s`; N_SLOTS is at most 16 (R6). -/
abbrev SlotBits := BitVec 16

/-- The 4-bit slot number of an operand or of the sequencer (R109, R50). -/
abbrev SlotIdx := BitVec 4

end Sys2Proof
end

