-- ==== Sys2Proof/Syntax.lean ====
section
/-! DEFINITION. The operations: one constructor per row of spec/opcode_table.json, and the two forms of code word. -/

namespace Sys2Proof

/-- The operations of the block: the twelve OPW operations (R110), the six classes of a MIDI byte
(R105) and the reserved opcodes (R111). -/
inductive Instr where
  /-- PUSH b (R181). -/
  | push (byte : Byte)
  /-- POP (R183). -/
  | pop
  /-- AVAIL (R184). -/
  | avail
  /-- PARSE b (R211-R216, R218). -/
  | parse (byte : Byte)
  /-- POLL s (R142). -/
  | poll (slot : SlotIdx)
  /-- SET s, on (R160). -/
  | set (slot : SlotIdx) (on : Bool)
  /-- ONMIDI cc, val (R240). -/
  | onmidi (cc val : Data7)
  /-- ONSWITCH s, on (R243). -/
  | onswitch (slot : SlotIdx) (on : Bool)
  /-- STEP (R261-R265, R268). -/
  | step
  /-- TICK n (R266). -/
  | tick (n : BitVec 16)
  /-- PINS v (R267). -/
  | pins (levels : BitVec 16)
  /-- RESET ch (R340). -/
  | reset (ch : BitVec 4)
  /-- In S0, the CC status byte of channel bits `chan`, this block's own (R211). -/
  | midiCcsMatch (chan : BitVec 4)
  /-- In S0, any other byte (R212). -/
  | midiS0Ignore (byte : Byte)
  /-- In S1, a data byte of value `data` (R213). -/
  | midiS1Data (data : Data7)
  /-- In S1, a status byte with the low seven bits `low` (R214). -/
  | midiS1Status (low : Data7)
  /-- In S2, a data byte of value `data` (R215). -/
  | midiS2Data (data : Data7)
  /-- In S2, a status byte with the low seven bits `low` (R216). -/
  | midiS2Status (low : Data7)
  /-- A word with the reserved opcode `op` and the other twenty bits `rest` (R111). -/
  | reserved (op : BitVec 4) (rest : BitVec 20)
deriving DecidableEq, Repr

/-- What an operation is written as: an operation word (R107) or a byte of the MIDI stream (R100). -/
inductive CodeWord where
  | op (word : OpWord)
  | midi (byte : Byte)
deriving DecidableEq, Repr

end Sys2Proof
end

