-- ==== Sys2Proof/WellFormed.lean ====
section
/-! DEFINITION. What a decoder needs to know of the machine, and which operations a code word can spell there. -/

namespace Sys2Proof

/-- What a code word's meaning depends on beside its bits: N_SLOTS (R109, PINS), and the parser's state
and channel, which class a MIDI byte (R105). -/
structure DecodeCtx where
  nSlots : Nat
  pstate : BitVec 2
  chanBits : BitVec 4
deriving DecidableEq, Repr

/-- Parser state S0, AwaitingStatus (R44). -/
abbrev pstateS0 : BitVec 2 := 0b00#2
/-- Parser state S1, AwaitingNumber (R44). -/
abbrev pstateS1 : BitVec 2 := 0b01#2
/-- Parser state S2, AwaitingValue (R44). -/
abbrev pstateS2 : BitVec 2 := 0b10#2
/-- The code that is no parser state (R44, R218). -/
abbrev pstateIllegal : BitVec 2 := 0b11#2

/-- Does some code word spell this operation in the context? PINS has no level at or above N_SLOTS
(R112). A byte class exists in its own parser state only, MIDI_CCS_MATCH for the block's own channel
and MIDI_S0_IGNORE for every other byte (R105). A reserved opcode is one of R111's four. A slot at or
above N_SLOTS is well-formed (R113). -/
def Instr.wellFormed (c : DecodeCtx) : Instr → Bool
  | .push _ => true
  | .pop => true
  | .avail => true
  | .parse _ => true
  | .poll _ => true
  | .set _ _ => true
  | .onmidi _ _ => true
  | .onswitch _ _ => true
  | .step => true
  | .tick _ => true
  | .pins v => decide (v.toNat < 2 ^ c.nSlots)
  | .reset _ => true
  | .midiCcsMatch ch => decide (c.pstate = pstateS0) && decide (ch = c.chanBits)
  | .midiS0Ignore b => decide (c.pstate = pstateS0) && decide (b ≠ 0xB0#8 ||| c.chanBits.setWidth 8)
  | .midiS1Data _ => decide (c.pstate = pstateS1)
  | .midiS1Status _ => decide (c.pstate = pstateS1)
  | .midiS2Data _ => decide (c.pstate = pstateS2)
  | .midiS2Status _ => decide (c.pstate = pstateS2)
  | .reserved op _ => decide (op = 0x0#4) || decide (op = 0xD#4) || decide (op = 0xE#4) || decide (op = 0xF#4)

end Sys2Proof
end

