-- ==== Sys2Proof/Decode.lean ====
section
/-! DEFINITION. The decoder of operation words and MIDI bytes, total and rejecting by name, and after it the encoder. -/

namespace Sys2Proof

/-! ### Fields of an operation word (R107, R109) -/

/-- `op` = w[23:20]. -/
def opField (w : OpWord) : BitVec 4 := w.extractLsb' 20 4
/-- `slot` = w[19:16]. -/
def slotField (w : OpWord) : SlotIdx := w.extractLsb' 16 4
/-- `on` = w[15]. -/
def onField (w : OpWord) : Bool := w.getLsbD 15
/-- `cc` = w[14:8]. -/
def ccField (w : OpWord) : Data7 := w.extractLsb' 8 7
/-- `val` = w[6:0]. -/
def valField (w : OpWord) : Data7 := w.extractLsb' 0 7
/-- `byte` = w[7:0]. -/
def byteField (w : OpWord) : Byte := w.extractLsb' 0 8
/-- `imm16` = w[15:0]. -/
def immField (w : OpWord) : BitVec 16 := w.extractLsb' 0 16
/-- `ch` = w[3:0]. -/
def chField (w : OpWord) : BitVec 4 := w.extractLsb' 0 4
/-- Every bit below `op`. -/
def restField (w : OpWord) : BitVec 20 := w.extractLsb' 0 20

/-! ### Bytes of the MIDI stream (R100-R103) -/

/-- Bit 7 set: a status byte; clear: a data byte (R100). -/
def isStatus (b : Byte) : Bool := b.getLsbD 7
/-- The low seven bits: the value of a data byte (R101). -/
def low7 (b : Byte) : Data7 := b.extractLsb' 0 7
/-- The Control Change status byte `0xB0 | chan` (R102, R103). -/
def ccStatus (chan : BitVec 4) : Byte := 0xB0#8 ||| chan.setWidth 8
/-- The status byte with these low seven bits. -/
def statusByte (low : Data7) : Byte := 0x80#8 ||| low.setWidth 8
/-- The data byte of this value. -/
def dataByte (data : Data7) : Byte := data.setWidth 8

/-! ### The decoder -/

/-- Why a code word spells no operation. -/
inductive DecodeError where
  /-- A reserved bit of the word is set (R112). -/
  | reservedBits (word : OpWord)
  /-- The byte has no class, because `pstate` is 0b11 (R218). -/
  | noParserState (byte : Byte)
deriving DecidableEq, Repr

/-- The operation, when the word's reserved bits are all zero (R108, R112). -/
def whenZero (w : OpWord) (zero : Bool) (i : Instr) : Except DecodeError Instr :=
  if zero then .ok i else .error (.reservedBits w)

/-- Decoding an operation word on a block of `n` slots (R107-R112). -/
def decodeOp (n : Nat) (w : OpWord) : Except DecodeError Instr :=
  match (opField w).toNat with
  | 0x1 => whenZero w (w.extractLsb' 8 12 == 0#12) (.push (byteField w))
  | 0x2 => whenZero w (restField w == 0#20) .pop
  | 0x3 => whenZero w (restField w == 0#20) .avail
  | 0x4 => whenZero w (w.extractLsb' 8 12 == 0#12) (.parse (byteField w))
  | 0x5 => whenZero w (w.extractLsb' 0 16 == 0#16) (.poll (slotField w))
  | 0x6 => whenZero w (w.extractLsb' 0 15 == 0#15) (.set (slotField w) (onField w))
  | 0x7 => whenZero w (w.extractLsb' 15 5 == 0#5 && w.extractLsb' 7 1 == 0#1) (.onmidi (ccField w) (valField w))
  | 0x8 => whenZero w (w.extractLsb' 0 15 == 0#15) (.onswitch (slotField w) (onField w))
  | 0x9 => whenZero w (restField w == 0#20) .step
  | 0xA => whenZero w (w.extractLsb' 16 4 == 0#4) (.tick (immField w))
  | 0xB => whenZero w (w.extractLsb' 16 4 == 0#4 && decide ((immField w).toNat < 2 ^ n)) (.pins (immField w))
  | 0xC => whenZero w (w.extractLsb' 4 16 == 0#16) (.reset (chField w))
  | _ => .ok (.reserved (opField w) (restField w))

/-- The class of a MIDI byte in a parser state (R105). -/
def decodeMidi (pstate : BitVec 2) (chan : BitVec 4) (b : Byte) : Except DecodeError Instr :=
  if pstate = pstateS0 then
    if b = ccStatus chan then .ok (.midiCcsMatch chan) else .ok (.midiS0Ignore b)
  else if pstate = pstateS1 then
    if isStatus b then .ok (.midiS1Status (low7 b)) else .ok (.midiS1Data (low7 b))
  else if pstate = pstateS2 then
    if isStatus b then .ok (.midiS2Status (low7 b)) else .ok (.midiS2Data (low7 b))
  else .error (.noParserState b)

/-- Decoding a code word in a context. -/
def decodeCode (c : DecodeCtx) : CodeWord → Except DecodeError Instr
  | .op w => decodeOp c.nSlots w
  | .midi b => decodeMidi c.pstate c.chanBits b

/-! ### The encoder (R107-R110; the words of R115) -/

/-- `POP`. -/
def wordPop : OpWord := 0x200000#24
/-- `PUSH b`. -/
def wordPush (b : Byte) : OpWord := 0x100000#24 ||| b.setWidth 24
/-- `STEP`. -/
def wordStep : OpWord := 0x900000#24
/-- `TICK n`. -/
def wordTick (n : BitVec 16) : OpWord := 0xA00000#24 ||| n.setWidth 24
/-- `POLL s`. -/
def wordPoll (slot : SlotIdx) : OpWord := 0x500000#24 ||| slot.setWidth 24 <<< 16
/-- `SET s, on`. -/
def wordSet (slot : SlotIdx) (on : Bool) : OpWord := 0x600000#24 ||| slot.setWidth 24 <<< 16 ||| (BitVec.ofBool on).setWidth 24 <<< 15
/-- `ONSWITCH s, on`. -/
def wordOnswitch (slot : SlotIdx) (on : Bool) : OpWord := 0x800000#24 ||| slot.setWidth 24 <<< 16 ||| (BitVec.ofBool on).setWidth 24 <<< 15
/-- A word with a reserved opcode. -/
def wordReserved (op : BitVec 4) (rest : BitVec 20) : OpWord := op.setWidth 24 <<< 20 ||| rest.setWidth 24

/-- The code word of an operation. -/
def encode : Instr → CodeWord
  | .push b => .op (wordPush b)
  | .pop => .op wordPop
  | .avail => .op 0x300000#24
  | .parse b => .op (0x400000#24 ||| b.setWidth 24)
  | .poll s => .op (wordPoll s)
  | .set s on => .op (wordSet s on)
  | .onmidi cc val => .op (0x700000#24 ||| cc.setWidth 24 <<< 8 ||| val.setWidth 24)
  | .onswitch s on => .op (wordOnswitch s on)
  | .step => .op wordStep
  | .tick n => .op (wordTick n)
  | .pins v => .op (0xB00000#24 ||| v.setWidth 24)
  | .reset ch => .op (0xC00000#24 ||| ch.setWidth 24)
  | .midiCcsMatch ch => .midi (ccStatus ch)
  | .midiS0Ignore b => .midi b
  | .midiS1Data d => .midi (dataByte d)
  | .midiS1Status low => .midi (statusByte low)
  | .midiS2Data d => .midi (dataByte d)
  | .midiS2Status low => .midi (statusByte low)
  | .reserved op rest => .op (wordReserved op rest)

/-! ### The pseudo-operations of the assembler (R116) -/

/-- `MSG cc, val`: one CC message on the channel with bits `chan`, as three pushes. -/
def pseudoMsg (chan : BitVec 4) (cc val : Data7) : List Instr :=
  [.push (ccStatus chan), .push (dataByte cc), .push (dataByte val)]
/-- `RELEASE_ALL` on a block of `n` slots. -/
def pseudoReleaseAll (n : Nat) : List Instr := [.pins (BitVec.ofNat 16 (2 ^ n - 1))]
/-- `WAIT_DB` with a window of `tDb` ticks: one TICK (R116). Above 65535 the operand is `tDb` modulo 2^16, DESIGN CHOICE (log 18). -/
def pseudoWaitDb (tDb : Nat) : List Instr := [.tick (BitVec.ofNat 16 tDb)]
/-- `WAIT_HO` with a hold-off of `tHo` ticks: one TICK (R116). Above 65535 the operand is `tHo` modulo 2^16, DESIGN CHOICE (log 18). -/
def pseudoWaitHo (tHo : Nat) : List Instr := [.tick (BitVec.ofNat 16 tHo)]
/-- `PASS_IDLE` on a block of `n` slots. -/
def pseudoPassIdle (n : Nat) : List Instr := List.replicate (n + 1) .step

/-! ### The opcode table's words -/

/-- The code word whose `nbits` bits are `w`: a row of 8 bits is a MIDI byte, any other an OPW. -/
def codeOfTable (nbits w : Nat) : CodeWord :=
  if nbits = 8 then .midi (BitVec.ofNat 8 w) else .op (BitVec.ofNat 24 w)

/-- The decoder on a table word, in the context of the state after reset of the reference design: four
slots, S0 and channel bits 0 (log 12: a MIDI byte's class depends on the parser state). -/
def decodeTableWord (nbits w : Nat) : Option Instr :=
  match decodeCode ⟨4, pstateS0, 0#4⟩ (codeOfTable nbits w) with
  | .ok i => some i
  | .error _ => none

end Sys2Proof
end

