-- ==== Sys2Proof/Config.lean ====
section
/-! DEFINITION. The implementation parameters (00_scope R6-R15), as plain data of which every legal value is covered. -/

namespace Sys2Proof

/-- COLLISION_ORDER: how a byte arrival and a loop step of one clock cycle are serialised (R14). -/
inductive CollisionOrder where
  /-- The loop step first, then the push: what a hardware implementation fixes. -/
  | loopFirst
  /-- The push first, then the loop step: the other order the model admits. -/
  | pushFirst
deriving DecidableEq, Repr

/-- The parameters of the step relation (R59): fixed while the block runs. The defaults are the spec's. -/
structure Params where
  /-- CFG, one word per slot (R9, R40). Its length is N_SLOTS. -/
  cfg : List CfgWord
  /-- The exponent k of RB_CAP = 2^k (R7). -/
  rbLog : Nat
  /-- T_DB, the debounce window in ticks (R10). -/
  tDb : Nat := 40
  /-- T_HO, the latching hold-off in ticks (R10). -/
  tHo : Nat := 700
  /-- TICK_PERIOD in microseconds (R11). No rule reads it. -/
  tickPeriod : Nat := 1000
  /-- LATCH_REQUIRE_CONFIRM (R12). -/
  latchRequireConfirm : Bool := false
  /-- BOOT_SHOW_LATCH (R13). -/
  bootShowLatch : Bool := false
  /-- COLLISION_ORDER (R14). -/
  collisionOrder : CollisionOrder := .loopFirst
deriving DecidableEq, Repr

/-- N_SLOTS (R6). -/
def Params.nSlots (p : Params) : Nat := p.cfg.length

/-- RB_CAP (R7). -/
def Params.rbCap (p : Params) : Nat := 2 ^ p.rbLog

/-- The parameter values the spec admits: 1 <= N_SLOTS <= 16 (R6) and RB_CAP = 2^k with k >= 1 (R7). -/
abbrev Params.Legal (p : Params) : Prop := 1 ≤ p.nSlots ∧ p.nSlots ≤ 16 ∧ 1 ≤ p.rbLog

/-- CFG_A, the common configuration of 95_test_vectors: slots 0 and 1 momentary on CC 80 and 81, slot 2
latching on CC 103, slot 3 latching on CC 104 with no indicator (log 7). -/
def cfgA : List CfgWord := [0x03007F50#32, 0x03007F51#32, 0x027F0067#32, 0x00007F68#32]

/-- The reference design as 95_test_vectors sets it up: N_SLOTS = 4, RB_CAP = 4, every other parameter at
its default (log 7). -/
def referenceParams : Params := { cfg := cfgA, rbLog := 2 }

end Sys2Proof
end

