-- ==== Sys2Proof/Machine/State.lean ====
section
/-! DEFINITION. The machine's state as plain data, the reasons a step can stop, and the state after reset. -/

namespace Sys2Proof.Machine

/-- `seq_phase`, the four phases of the control loop (R50). -/
inductive Phase where
  /-- About to take the first sample of slot `seq_slot`. -/
  | sample
  /-- In the debounce window of slot `seq_slot`. -/
  | debounce
  /-- In the latching hold-off after slot `seq_slot`'s flip. -/
  | holdoff
  /-- About to drain at most one MIDI byte. -/
  | midi
deriving DecidableEq, Repr

/-- The 2-bit code of a phase (R50). -/
def Phase.code : Phase → BitVec 2
  | .sample => 0b00#2
  | .debounce => 0b01#2
  | .holdoff => 0b10#2
  | .midi => 0b11#2

/-- One `set(s, on)` call the Output Driver received: an entry of the trace (R56). -/
structure SetCall where
  slot : Nat
  on : Bool
deriving DecidableEq, Repr

/-- The recorded model outcomes of R301, each with what it records. None changes any other state, and none
stops the run (log 1). -/
inductive ModelOutcome where
  /-- Code 1, F_POP_EMPTY: POP with `count = 0`. Records the operation word. -/
  | popEmpty (word : OpWord)
  /-- Code 2, F_BAD_SLOT: POLL, SET or ONSWITCH with `slot >= N_SLOTS`. Records the word and the slot. -/
  | badSlot (word : OpWord) (slot : SlotIdx)
  /-- Code 3, F_CONFIG: RESET with a reserved bit set in a CFG word. Records the slot (log 16). -/
  | config (slot : Nat)
  /-- Code 4, REFUSED_ENCODING: a reserved opcode or a set reserved bit. Records the word. -/
  | refusedEncoding (word : OpWord)
  /-- Code 5, REFUSED_STATE: a byte for the parser while `pstate = 0b11`. Records the byte. -/
  | refusedState (byte : Byte)
deriving DecidableEq, Repr

/-- The code of a model outcome (the first column of R301's table). -/
def ModelOutcome.code : ModelOutcome → Nat
  | .popEmpty _ => 1
  | .badSlot _ _ => 2
  | .config _ => 3
  | .refusedEncoding _ => 4
  | .refusedState _ => 5

/-- What the last operation answered at the test port: the model's own field (log 3). -/
inductive OpResult where
  /-- The operation completed and returns nothing. -/
  | done
  /-- The byte POP returns (R183). -/
  | byte (b : Byte)
  /-- The count AVAIL returns (R184). -/
  | count (n : Nat)
  /-- HELD: a STEP issued while a wait holds SEQ; not recorded in the sticky set (R268, R301). -/
  | held
  /-- A model outcome of R301. -/
  | raised (e : ModelOutcome)
deriving DecidableEq, Repr

/-- One event of the queue that the agents and the test port present (R55, R60; log 4). -/
inductive Input where
  /-- An operation word, or a byte handed to the parser. -/
  | code (c : CodeWord)
  /-- A received byte and a loop step in one clock cycle, serialised by COLLISION_ORDER (R14, R273; log 13). -/
  | sameCycle (rx : Byte)
deriving DecidableEq, Repr

/-- The state (10_state), one field per element of R31, then the model's own fields. -/
structure State where
  /-- The parameters and the configuration ROM `CFG` (R59, R40): no step changes them (log 6). -/
  params : Params
  /-- `is_on[s]` (R32). -/
  isOn : SlotBits
  /-- `ind[s]`, the indicator register, which drives the indicator pins (R35, R47). -/
  ind : SlotBits
  /-- The written cells of `rb[]` (R36), addresses strictly rising; an unlisted cell has no value (log 9). -/
  rb : List Host.Cell
  /-- `head` (R37). -/
  head : Nat
  /-- `tail` (R37). -/
  tail : Nat
  /-- `count` (R38). -/
  count : Nat
  /-- `chan_bits` (R42). -/
  chanBits : BitVec 4
  /-- `pstate` (R44). -/
  pstate : BitVec 2
  /-- `pending` (R45). -/
  pending : Data7
  /-- `seq_phase` (R50). -/
  phase : Phase
  /-- `seq_slot` (R50). -/
  seqSlot : SlotIdx
  /-- `wait_ctr` (R51). -/
  waitCtr : Nat
  /-- `pins`, the levels of the switch inputs, 1 released and 0 pressed (R46). -/
  pins : SlotBits
  /-- The trace of `set` calls, oldest first: an observation (R56). -/
  trace : List SetCall
  /-- The sticky fault set, without repeats, in the order of first recording (R301; log 2). -/
  sticky : List ModelOutcome
  /-- What the last operation answered (log 3). -/
  result : OpResult
  /-- The events still to come, oldest first (log 4). -/
  input : List Input
deriving DecidableEq, Repr

/-- Why a step stops the model. Neither is an outcome of the spec's table R301, and neither can happen in a state
reached from reset. -/
inductive Fault where
  /-- Raised by POP and by STEP in the MIDI phase when the cell to read holds no value (R57 allows this fault and
  calls it unreachable). Safe: the hardware's cell would hold some byte. -/
  | ringCellNoValue
  /-- Raised by STEP in SAMPLE and DEBOUNCE when `seq_slot >= N_SLOTS`: CfgRead is never called for such a slot (R72).
  Safe (log 10). -/
  | seqSlotNoSlot
deriving DecidableEq, Repr

/-- Why an operation has no meaning in the model. -/
inductive Refusal where
  /-- An arm of exec that has no meaning yet; no arm answers it. Safe. -/
  | notModelled (mnemonic : String)
deriving DecidableEq, Repr

/-- What executing an operation answers. -/
abbrev Answer := Host.Outcome State Fault Refusal

/-- N_SLOTS of this block. -/
def State.nSlots (s : State) : Nat := s.params.nSlots

/-- What the decoder needs of the state. -/
def State.decodeCtx (s : State) : DecodeCtx := ⟨s.nSlots, s.pstate, s.chanBits⟩

/-- The machine right after RESET 0 (R58, R340), every switch released, for the reference parameters (logs 7, 8);
nothing recorded, nothing answered and no event waiting (logs 2, 3, 4). -/
def State.reset : State where
  params := referenceParams
  isOn := 0#16
  ind := 0#16
  rb := []
  head := 0
  tail := 0
  count := 0
  chanBits := 0#4
  pstate := pstateS0
  pending := 0#7
  phase := .sample
  seqSlot := 0#4
  waitCtr := 0
  pins := 0x000F#16
  trace := []
  sticky := []
  result := .done
  input := []

end Sys2Proof.Machine
end

