-- ==== Sys2Proof/Machine/Operands.lean ====
section
/-! DEFINITION. The operand forms: slot vectors, configuration fields and the channel, read once here. -/

namespace Sys2Proof.Machine

/-! ### Slot vectors -/

/-- The slot vector whose bit `s` is `f s`. -/
def slotBits (f : Nat → Bool) : SlotBits := BitVec.ofFnLE (n := 16) (fun i => f i.val)

/-- `v` with bit `k` replaced: `v[k] <- b`. -/
def putBit (v : SlotBits) (k : Nat) (b : Bool) : SlotBits :=
  slotBits (fun m => if m = k then b else v.getLsbD m)

/-! ### Configuration (R40, R72) -/

/-- CfgRead(k): the configuration word of slot `k`, for `k < N_SLOTS` (R72). -/
def cfgRead (p : Params) (k : Nat) : CfgWord := p.cfg.getD k 0#32

/-- `cc_number` = CFG[6:0]. -/
def ccNumber (p : Params) (k : Nat) : Data7 := (cfgRead p k).extractLsb' 0 7
/-- `on_value` = CFG[14:8]. -/
def onValue (p : Params) (k : Nat) : Data7 := (cfgRead p k).extractLsb' 8 7
/-- `off_value` = CFG[22:16]; read by no rule (R241). -/
def offValue (p : Params) (k : Nat) : Data7 := (cfgRead p k).extractLsb' 16 7

/-! ### The channel -/

/-- MidiChannel = chan_bits + 1, 1..16 (R43). -/
def midiChannel (s : State) : Nat := s.chanBits.toNat + 1

end Sys2Proof.Machine
end

