-- ==== Sys2Proof/Machine/Flags.lean ====
section
/-! DEFINITION. The booleans of the block. It has no condition codes (R52): these are the configuration flags, the
switch readings, the exclusivity rule and the hold. -/

namespace Sys2Proof.Machine

/-- `is_momentary` = CFG[24] (R40). -/
def isMomentary (p : Params) (k : Nat) : Bool := (cfgRead p k).getLsbD 24

/-- `has_indicator` = CFG[25] (R40). -/
def hasIndicator (p : Params) (k : Nat) : Bool := (cfgRead p k).getLsbD 25

/-- The reserved bits of a CFG word: 7, 15, 23 and 31:26 (R40). -/
def cfgReservedMask : CfgWord := 0xFC808080#32

/-- Does slot `k`'s CFG word have a reserved bit set (R41)? -/
def cfgReservedSet (p : Params) (k : Nat) : Bool := cfgRead p k &&& cfgReservedMask != 0#32

/-- Is the switch of slot `k` pressed, level 0, in a snapshot of the levels (R46, `raw_pressed`)? -/
def rawPressed (snap : SlotBits) (k : Nat) : Bool := !snap.getLsbD k

/-- `momentary_pressed_count(S)` (R131): every momentary slot counts, with or without an indicator (R133). -/
def momentaryPressedCount (p : Params) (snap : SlotBits) : Nat :=
  (List.range p.nSlots).countP (fun m => isMomentary p m && rawPressed snap m)

/-- `excl(S, k)`: slot `k` is momentary and the one momentary slot pressed in the snapshot (R131). -/
def excl (p : Params) (snap : SlotBits) (k : Nat) : Bool :=
  isMomentary p k && rawPressed snap k && momentaryPressedCount p snap == 1

/-- Is the phase one of the two waits (R268)? -/
def Phase.isWait : Phase → Bool
  | .sample => false
  | .debounce => true
  | .holdoff => true
  | .midi => false

/-- SEQ is held: in a wait whose counter has not reached 0 (R268). -/
def held (s : State) : Bool := s.phase.isWait && decide (0 < s.waitCtr)

end Sys2Proof.Machine
end

