-- ==== Sys2Proof/Machine/Ops.lean ====
section
/-! DEFINITION. The named operations over the state: ring RAM, ring buffer, model outcomes, the receive interrupt, the
trace and the sequencer's position. -/

namespace Sys2Proof.Machine

/-! ### The ring RAM: cells by address, addresses strictly rising, an unlisted cell has no value (R36, R57) -/

/-- The value of a cell, if it has one. -/
def Memory.read (m : List Host.Cell) (a : Nat) : Option Byte := m.lookup a

/-- `m` with cell `a` holding `b`, kept in canonical form. -/
def Memory.write : List Host.Cell → Nat → Byte → List Host.Cell
  | [], a, b => [(a, b)]
  | c :: m, a, b =>
    if a < c.1 then (a, b) :: c :: m
    else if a = c.1 then (a, b) :: m
    else c :: Memory.write m a b

/-- The canonical form: addresses strictly rising. (No entry can equal an unlisted cell, which has no value.) -/
def Memory.wf : List Host.Cell → Bool
  | [] => true
  | [_] => true
  | c :: d :: m => decide (c.1 < d.1) && Memory.wf (d :: m)

/-- `(x + 1) & RB_MASK` (R19). -/
def nextIndex (p : Params) (x : Nat) : Nat := (x + 1) % p.rbCap

/-- RbRead(i): cell `i & RB_MASK` (R72). -/
def rbRead (s : State) (i : Nat) : Option Byte := Memory.read s.rb (i % s.params.rbCap)

/-- RbWrite(i, b): cell `i & RB_MASK` (R72). -/
def rbWrite (s : State) (i : Nat) (b : Byte) : State :=
  { s with rb := Memory.write s.rb (i % s.params.rbCap) b }

/-! ### The ring buffer (R181, R183) -/

/-- The push of R181: nothing when the buffer is full, else pre-increment, store and count. -/
def ringPush (b : Byte) (s : State) : State :=
  if s.count = s.params.rbCap then s
  else
    let head := nextIndex s.params s.head
    { rbWrite s head b with head := head, count := s.count + 1 }

/-- The pop of R183 on a buffer that is not empty: the byte at the advanced tail, and the state after; none when that
cell holds no value (log 9). -/
def ringPop (s : State) : Option (Byte × State) :=
  let tail := nextIndex s.params s.tail
  (rbRead s tail).map (fun b => (b, { s with tail := tail, count := s.count - 1 }))

/-- The live bytes, oldest first (R39). -/
def liveCells (s : State) : List (Option Byte) :=
  (List.range s.count).map (fun j => rbRead s (s.tail + 1 + j))

/-! ### Outcomes (R300-R302). The hardware has no exception to take: an outcome changes no state, is recorded in the
sticky set and reported, and the next operation follows (log 1). -/

/-- The sticky set with one more outcome (R301). -/
def stickyInsert (l : List ModelOutcome) (e : ModelOutcome) : List ModelOutcome :=
  if e ∈ l then l else l ++ [e]

/-- An operation ends in a model outcome: recorded and reported, nothing else changes (R301). -/
def raise (e : ModelOutcome) (s : State) : State :=
  { s with sticky := stickyInsert s.sticky e, result := .raised e }

/-- An operation ends normally and returns nothing. -/
def done (s : State) : State := { s with result := .done }

/-- The outcome HELD: reported, not recorded (R268, R301). -/
def reportHeld (s : State) : State := { s with result := .held }

/-- What a code word that spells no operation does (R111, R112, R218, R302). -/
def reject (e : DecodeError) (s : State) : State :=
  match e with
  | .reservedBits w => raise (.refusedEncoding w) s
  | .noParserState b => raise (.refusedState b) s

/-- The receive interrupt, the block's one interrupt: its whole service is the atomic push of the byte. Entry saves no
state, changes no mode or mask and does not move the sequencer, and there is no return operation (R304-R309). -/
def takeRxInterrupt (b : Byte) (s : State) : State := ringPush b s

/-! ### The trace and the sequencer's position -/

/-- `emit set(k, on)` (R17, R56). -/
def emit (k : Nat) (on : Bool) (s : State) : State := { s with trace := s.trace ++ [⟨k, on⟩] }

/-- `advance()` (R262): the next slot, or the MIDI phase after the last; `seq_slot` then keeps its value. -/
def advance (s : State) : State :=
  if s.seqSlot.toNat < s.nSlots - 1 then { s with seqSlot := s.seqSlot + 1#4, phase := .sample }
  else { s with phase := .midi }

/-- Entering a wait of `ticks` ticks (R51). -/
def enterWait (ph : Phase) (ticks : Nat) (s : State) : State := { s with waitCtr := ticks, phase := ph }

/-- The next pass begins at slot 0 (R265). -/
def nextPass (s : State) : State := { s with seqSlot := 0#4, phase := .sample }

end Sys2Proof.Machine
end

