-- ==== Sys2Proof/Machine/OutputDriver.lean ====
section
/-! DEFINITION. The Output Driver, the one writer of the indicator register (41_output_driver): SET. -/

namespace Sys2Proof.Machine

/-- The new indicator register of a momentary slot turned on: every other momentary indicator cleared, this one lit,
in one update (R161). -/
def lightMomentary (p : Params) (k : Nat) (ind : SlotBits) : SlotBits :=
  slotBits (fun m =>
    if m = k then true
    else if decide (m < p.nSlots) && isMomentary p m && hasIndicator p m then false
    else ind.getLsbD m)

/-- The indicator register after `set(k, on)` on a slot that has an indicator (R161, R162, R163). -/
def driveIndicators (p : Params) (k : Nat) (on : Bool) (ind : SlotBits) : SlotBits :=
  if on && isMomentary p k then lightMomentary p k ind
  else if on then putBit ind k true
  else putBit ind k false

/-- `set(k, on)` for a slot that exists (R160): the call is traced, and a slot with no indicator does nothing more. -/
def driverSet (k : Nat) (on : Bool) (s : State) : State :=
  let t := emit k on s
  if hasIndicator s.params k then { t with ind := driveIndicators s.params k on s.ind } else t

/-- The level of slot `k`'s indicator pin, high for true (R47, R167): `ind[k]` as it stands. A slot with no indicator has no pin
(R167), and a slot that does not exist has none. -/
def indicatorPin (s : State) (k : Nat) : Option Bool :=
  if decide (k < s.nSlots) && hasIndicator s.params k then some (s.ind.getLsbD k) else none

/-- SET s, on (R160): the slot is checked before any effect (R113). -/
def execSet (slot : SlotIdx) (on : Bool) (s : State) : Answer :=
  if slot.toNat < s.nSlots then .next (done (driverSet slot.toNat on s))
  else .next (raise (.badSlot (wordSet slot on) slot) s)

end Sys2Proof.Machine
end

