-- ==== Sys2Proof/Machine/Dispatcher.lean ====
section
/-! DEFINITION. The Dispatcher (44_dispatcher): ONMIDI and ONSWITCH. -/

namespace Sys2Proof.Machine

/-- The call the scan makes for slot `i`, if its CC number matches: a momentary slot is commanded on whatever the value,
a latching slot on exactly for its on value (R240). -/
def midiCommand (p : Params) (cc val : Data7) (i : Nat) (s : State) : State :=
  if ccNumber p i = cc then driverSet i (isMomentary p i || decide (val = onValue p i)) s else s

/-- `onMidi(cc, val)`: the ascending scan of the configuration table, as one step (R240, R242). -/
def onMidi (cc val : Data7) (s : State) : State :=
  (List.range s.nSlots).foldl (fun t i => midiCommand s.params cc val i t) s

/-- `onSwitch(k, on)` for a slot that exists (R243). -/
def onSwitch (k : Nat) (on : Bool) (s : State) : State := driverSet k on s

/-- ONMIDI cc, val (R240). -/
def execOnmidi (cc val : Data7) (s : State) : Answer := .next (done (onMidi cc val s))

/-- ONSWITCH s, on (R243): the slot is checked before any effect (R113). -/
def execOnswitch (slot : SlotIdx) (on : Bool) (s : State) : Answer :=
  if slot.toNat < s.nSlots then .next (done (onSwitch slot.toNat on s))
  else .next (raise (.badSlot (wordOnswitch slot on) slot) s)

end Sys2Proof.Machine
end

