-- ==== Sys2Proof/Machine/Debounce.lean ====
section
/-! DEFINITION. The Switch Debounce Engine (40_debounce): the sample and confirm computations, and POLL. -/

namespace Sys2Proof.Machine

/-- `is_on[k] <- b`. -/
def setIsOn (k : Nat) (b : Bool) (s : State) : State := { s with isOn := putBit s.isOn k b }

/-- Momentary sample step for slot `k` (R135). -/
def momentarySample (k : Nat) (s : State) : State :=
  if excl s.params s.pins k ≠ s.isOn.getLsbD k then enterWait .debounce s.params.tDb s else advance s

/-- The body of the momentary confirm on the resample `snap`, without `advance()` (R136). The baseline ends inverted:
`is_on <- c`, dispatch on, `is_on <- !c` (R138). -/
def momentaryConfirm (k : Nat) (snap : SlotBits) (s : State) : State :=
  let c := excl s.params snap k
  if c ≠ s.isOn.getLsbD k then setIsOn k (!c) (onSwitch k true (setIsOn k c s)) else s

/-- Latching sample step for slot `k` (R139): the raw level, no exclusivity. -/
def latchingSample (k : Nat) (s : State) : State :=
  if rawPressed s.pins k then enterWait .debounce s.params.tDb s else advance s

/-- Does the latching confirm suppress the flip on the resample `snap` (R140, R12)? -/
def flipSuppressed (k : Nat) (snap : SlotBits) (s : State) : Bool :=
  s.params.latchRequireConfirm && !rawPressed snap k

/-- The flip of a latching slot and its command (R140). -/
def latchingFlip (k : Nat) (s : State) : State :=
  onSwitch k (!s.isOn.getLsbD k) (setIsOn k (!s.isOn.getLsbD k) s)

/-- The body of the latching confirm on the resample `snap`, without the phase change (R140). -/
def latchingConfirm (k : Nat) (snap : SlotBits) (s : State) : State :=
  if flipSuppressed k snap s then s else latchingFlip k s

/-- One slot's whole poll with the level held stable over the window (R142). -/
def pollSlot (k : Nat) (s : State) : State :=
  if isMomentary s.params k then
    if excl s.params s.pins k ≠ s.isOn.getLsbD k then momentaryConfirm k s.pins s else s
  else if rawPressed s.pins k then latchingConfirm k s.pins s else s

/-- POLL s (R142): the slot is checked before any effect (R113). -/
def execPoll (slot : SlotIdx) (s : State) : Answer :=
  if slot.toNat < s.nSlots then .next (done (pollSlot slot.toNat s))
  else .next (raise (.badSlot (wordPoll slot) slot) s)

end Sys2Proof.Machine
end

