-- ==== Sys2Proof/Machine/Parser.lean ====
section
/-! DEFINITION. The MIDI CC parser (43_parser): PARSE, and the six classes of a MIDI byte. -/

namespace Sys2Proof.Machine

/-- S0, the CC status byte of this channel (R211). -/
def parseMatch (s : State) : State := { s with pstate := pstateS1 }
/-- S0, any other byte: nothing changes (R212). -/
def parseIgnore (s : State) : State := s
/-- S1, a data byte: the CC number (R213). -/
def parseNumber (d : Data7) (s : State) : State := { s with pending := d, pstate := pstateS2 }
/-- S1, a status byte: consumed, the message is dropped (R214). -/
def parseAbortNumber (s : State) : State := { s with pstate := pstateS0 }
/-- S2, a data byte: the CC value, dispatched inside the step (R215). -/
def parseValue (d : Data7) (s : State) : State := { onMidi s.pending d s with pstate := pstateS0 }
/-- S2, a status byte: consumed, nothing is dispatched (R216). -/
def parseAbortValue (s : State) : State := { s with pstate := pstateS0 }

/-- The parser's transition on a byte, by the byte's class in the present parser state (R105, R210). -/
def parserByte (b : Byte) (s : State) : State :=
  if s.pstate = pstateS0 then
    if b = ccStatus s.chanBits then parseMatch s else parseIgnore s
  else if s.pstate = pstateS1 then
    if isStatus b then parseAbortNumber s else parseNumber (low7 b) s
  else
    if isStatus b then parseAbortValue s else parseValue (low7 b) s

/-- A byte handed to the parser as an operation: one transition, or REFUSED_STATE when `pstate` is no state (R218). -/
def consumeByte (b : Byte) (s : State) : Answer :=
  if s.pstate = pstateIllegal then .next (raise (.refusedState b) s)
  else .next (done (parserByte b s))

/-- PARSE b (R211-R216, R218). -/
def execParse (b : Byte) (s : State) : Answer := consumeByte b s

/-! The six byte classes. A class is what the decoder finds for a byte in the present parser state; each meaning hands its
byte to the parser, whose transition in that state is the class's own rule (log 12). -/

/-- MIDI_CCS_MATCH: in S0 and on this channel, R211. -/
def execMidiCcsMatch (chan : BitVec 4) (s : State) : Answer := consumeByte (ccStatus chan) s
/-- MIDI_S0_IGNORE: in S0, R212. -/
def execMidiS0Ignore (b : Byte) (s : State) : Answer := consumeByte b s
/-- MIDI_S1_DATA: in S1, R213. -/
def execMidiS1Data (d : Data7) (s : State) : Answer := consumeByte (dataByte d) s
/-- MIDI_S1_STATUS: in S1, R214. -/
def execMidiS1Status (low : Data7) (s : State) : Answer := consumeByte (statusByte low) s
/-- MIDI_S2_DATA: in S2, R215. -/
def execMidiS2Data (d : Data7) (s : State) : Answer := consumeByte (dataByte d) s
/-- MIDI_S2_STATUS: in S2, R216. -/
def execMidiS2Status (low : Data7) (s : State) : Answer := consumeByte (statusByte low) s

end Sys2Proof.Machine
end

