-- ==== Sys2Proof/Machine/ControlLoop.lean ====
section
/-! DEFINITION. The Control Loop sequencer and the environment (45_control_loop): STEP, TICK, PINS. -/

namespace Sys2Proof.Machine

/-- The sample step of the slot `seq_slot` (R261). -/
def sampleStep (s : State) : State :=
  if isMomentary s.params s.seqSlot.toNat then momentarySample s.seqSlot.toNat s else latchingSample s.seqSlot.toNat s

/-- The confirm step of the slot `seq_slot` (R263): a latching flip is followed by the hold-off (R140). -/
def confirmStep (s : State) : State :=
  let k := s.seqSlot.toNat
  if isMomentary s.params k then advance (momentaryConfirm k s.pins s)
  else if flipSuppressed k s.pins s then advance s
  else enterWait .holdoff s.params.tHo (latchingFlip k s)

/-- A step that acts on the slot `seq_slot`, which must exist (log 10). -/
def onSeqSlot (f : State → State) (s : State) : Answer :=
  if s.seqSlot.toNat < s.nSlots then .next (done (f s)) else .fault .seqSlotNoSlot

/-- The MIDI step (R265): at most one byte is popped and parsed, then the next pass begins. A byte for a parser in no
state refuses the whole step (log 11). -/
def midiStep (s : State) : Answer :=
  if s.count = 0 then .next (done (nextPass s))
  else
    match ringPop s with
    | none => .fault .ringCellNoValue
    | some (b, t) =>
      if s.pstate = pstateIllegal then .next (raise (.refusedState b) s)
      else .next (done (nextPass (parserByte b t)))

/-- STEP (R261-R265): HELD in a wait that has not ended (R268). -/
def execStep (s : State) : Answer :=
  if held s then .next (reportHeld s)
  else
    match s.phase with
    | .sample => onSeqSlot sampleStep s
    | .debounce => onSeqSlot confirmStep s
    | .holdoff => .next (done (advance s))
    | .midi => midiStep s

/-- The passage of `n` ticks (R266). Each decrements `wait_ctr` in a wait while it is not 0, so `n` of them subtract `n`
down to 0. -/
def passTicks (n : Nat) (s : State) : State :=
  if s.phase.isWait then { s with waitCtr := s.waitCtr - n } else s

/-- TICK n (R266). -/
def execTick (n : BitVec 16) (s : State) : Answer := .next (done (passTicks n.toNat s))

/-- PINS v (R267): `pins <- v[N_SLOTS-1:0]`. -/
def execPins (v : BitVec 16) (s : State) : Answer :=
  .next (done { s with pins := slotBits (fun k => decide (k < s.nSlots) && v.getLsbD k) })

end Sys2Proof.Machine
end

