-- ==== Sys2Proof/Machine/Reset.lean ====
section
/-! DEFINITION. Reset (70_reset_and_hazards), and the reserved opcodes. -/

namespace Sys2Proof.Machine

/-- The first slot whose CFG word has a reserved bit set (R343; log 16). -/
def badConfigSlot (p : Params) : Option Nat := (List.range p.nSlots).find? (cfgReservedSet p)

/-- `is_on` after reset: a latching slot whose switch reads pressed (R341). -/
def resetIsOn (p : Params) (snap : SlotBits) : SlotBits :=
  slotBits (fun k => decide (k < p.nSlots) && !isMomentary p k && rawPressed snap k)

/-- `ind` after reset (R342). -/
def resetInd (p : Params) (isOn : SlotBits) : SlotBits :=
  slotBits (fun k => decide (k < p.nSlots) && p.bootShowLatch && hasIndicator p k && !isMomentary p k && isOn.getLsbD k)

/-- The state after a reset with the channel selector at `ch` (R340, R345). The levels, the parameters, the sticky set and the
events to come are not the block's to clear. -/
def resetTo (ch : BitVec 4) (s : State) : State :=
  { s with
    chanBits := ch
    isOn := resetIsOn s.params s.pins
    ind := resetInd s.params (resetIsOn s.params s.pins)
    head := 0
    tail := 0
    count := 0
    rb := []
    pstate := pstateS0
    pending := 0#7
    phase := .sample
    seqSlot := 0#4
    waitCtr := 0
    trace := [] }

/-- RESET ch (R340): refused with F_CONFIG when a CFG word has a reserved bit set (R343). -/
def execReset (ch : BitVec 4) (s : State) : Answer :=
  match badConfigSlot s.params with
  | some k => .next (raise (.config k) s)
  | none => .next (done (resetTo ch s))

/-- A word with a reserved opcode: REFUSED_ENCODING, recorded; nothing else changes (R111, R301). -/
def execReserved (op : BitVec 4) (rest : BitVec 20) (s : State) : Answer :=
  .next (raise (.refusedEncoding (wordReserved op rest)) s)

end Sys2Proof.Machine
end

