-- ==== Sys2Proof/Machine/RingBuffer.lean ====
section
/-! DEFINITION. The MIDI ring buffer's operations (42_ring_buffer): PUSH, POP, AVAIL. -/

namespace Sys2Proof.Machine

/-- PUSH b (R181): the receive interrupt's step. -/
def execPush (b : Byte) (s : State) : Answer := .next (done (takeRxInterrupt b s))

/-- POP (R183): F_POP_EMPTY on an empty buffer, else the oldest live byte. -/
def execPop (s : State) : Answer :=
  if s.count = 0 then .next (raise (.popEmpty wordPop) s)
  else
    match ringPop s with
    | none => .fault .ringCellNoValue
    | some (b, t) => .next { t with result := .byte b }

/-- AVAIL (R184). -/
def execAvail (s : State) : Answer := .next { s with result := .count s.count }

end Sys2Proof.Machine
end

