-- ==== Sys2Proof/Machine/Dispatch.lean ====
section
/-! DEFINITION. The meaning of every operation: one arm per constructor of Instr. -/

namespace Sys2Proof.Machine

def exec (i : Instr) (s : State) : Host.Outcome State Fault Refusal :=
  match i with
  | .push b => Sys2Proof.Machine.execPush b s
  | .pop => Sys2Proof.Machine.execPop s
  | .avail => Sys2Proof.Machine.execAvail s
  | .parse b => Sys2Proof.Machine.execParse b s
  | .poll slot => Sys2Proof.Machine.execPoll slot s
  | .set slot on => Sys2Proof.Machine.execSet slot on s
  | .onmidi cc val => Sys2Proof.Machine.execOnmidi cc val s
  | .onswitch slot on => Sys2Proof.Machine.execOnswitch slot on s
  | .step => Sys2Proof.Machine.execStep s
  | .tick n => Sys2Proof.Machine.execTick n s
  | .pins v => Sys2Proof.Machine.execPins v s
  | .reset ch => Sys2Proof.Machine.execReset ch s
  | .midiCcsMatch ch => Sys2Proof.Machine.execMidiCcsMatch ch s
  | .midiS0Ignore b => Sys2Proof.Machine.execMidiS0Ignore b s
  | .midiS1Data d => Sys2Proof.Machine.execMidiS1Data d s
  | .midiS1Status low => Sys2Proof.Machine.execMidiS1Status low s
  | .midiS2Data d => Sys2Proof.Machine.execMidiS2Data d s
  | .midiS2Status low => Sys2Proof.Machine.execMidiS2Status low s
  | .reserved op rest => Sys2Proof.Machine.execReserved op rest s

end Sys2Proof.Machine
end

