-- ==== Sys2Proof/Machine/Fetch.lean ====
section
/-! DEFINITION. Where the next operation comes from: the queue of events, and the block running by itself when it is empty. -/

namespace Sys2Proof.Machine

/-- With no event waiting: SEQ's step when it is enabled, else one tick, the one thing that lifts a hold (R60, R268, R271;
log 5). -/
def idleWord (s : State) : OpWord := if held s then wordTick 1#16 else wordStep

/-- A byte arrives in the clock cycle of a loop step (R14, R273; log 13): the first of the two events, and the events after it.
While SEQ is held the cycle has no loop step. -/
def fetchSameCycle (b : Byte) (rest : List Input) (s : State) : OpWord × List Input :=
  if held s then (wordPush b, rest)
  else
    match s.params.collisionOrder with
    | .loopFirst => (wordStep, .code (.op (wordPush b)) :: rest)
    | .pushFirst => (wordPush b, .code (.op wordStep) :: rest)

/-- The next code word, and the state with its event taken from the queue (log 4). -/
def fetch (s : State) : CodeWord × State :=
  match s.input with
  | [] => (.op (idleWord s), s)
  | .code c :: rest => (c, { s with input := rest })
  | .sameCycle b :: rest =>
    let f := fetchSameCycle b rest s
    (.op f.1, { s with input := f.2 })

/-- `s` with a code word put before every waiting event. -/
def presentCode (c : CodeWord) (s : State) : State := { s with input := .code c :: s.input }

end Sys2Proof.Machine
end

