-- ==== Sys2Proof/Machine/Step.lean ====
section
/-! DEFINITION. One step of the machine: take the next event, decode it and execute it. -/

namespace Sys2Proof.Machine

/-- One atomic step (R18, R60): the next event's operation, or the outcome of a code word that spells none (R302: the word is
decoded before anything is read). -/
def step (s : State) : Host.Outcome State Fault Refusal :=
  match decodeCode (fetch s).2.decodeCtx (fetch s).1 with
  | .ok i => exec i (fetch s).2
  | .error e => .next (reject e (fetch s).2)

/-- `s` with the code word of a table row as the next event (log 4). -/
def State.withFetchWord (s : State) (nbits w : Nat) : State := presentCode (codeOfTable nbits w) s

end Sys2Proof.Machine
end

