-- ==== Sys2Proof/Safety.lean ====
section
/-! DEFINITION. What holds of every state the block can be in, and what a safe run is, in the terms the claims use. -/

namespace Sys2Proof.Machine

/-- The ring invariant (R39), with what makes every live cell readable (R57). -/
structure RingOk (s : State) : Prop where
  /-- `count <= RB_CAP`. -/
  count_le : s.count ≤ s.params.rbCap
  /-- `head == (tail + count) mod RB_CAP`. -/
  head_eq : s.head = (s.tail + s.count) % s.params.rbCap
  /-- `tail` is an index. -/
  tail_lt : s.tail < s.params.rbCap
  /-- The ring RAM is in canonical form. -/
  mem_wf : Memory.wf s.rb = true
  /-- Only cells of the ring RAM are listed. -/
  cells_lt : ∀ c ∈ s.rb, c.1 < s.params.rbCap
  /-- Every live cell holds a value. -/
  live : ∀ j, j < s.count → rbRead s (s.tail + 1 + j) ≠ none

/-- The Output Driver's invariant (R165, R35): at most one momentary indicator lit, no slot without an indicator lit. -/
structure DriverOk (s : State) : Prop where
  one_lit : ∀ m k, m < s.nSlots → k < s.nSlots → isMomentary s.params m = true → isMomentary s.params k = true →
    s.ind.getLsbD m = true → s.ind.getLsbD k = true → m = k
  no_indicator : ∀ m, m < s.nSlots → hasIndicator s.params m = false → s.ind.getLsbD m = false

/-- A momentary slot's `is_on` is false (R33). -/
abbrev MomentaryOk (s : State) : Prop :=
  ∀ m, m < s.nSlots → isMomentary s.params m = true → s.isOn.getLsbD m = false

/-- The sequencer's and the parser's registers hold legal values (R44, R50, R51), and the slot vectors have no bit at or above
N_SLOTS (R31), on a block with legal parameters (R6, R7). -/
structure RegistersOk (s : State) : Prop where
  legal : s.params.Legal
  pstate_legal : s.pstate ≠ pstateIllegal
  slot_lt : s.seqSlot.toNat < s.nSlots
  wait_le : s.waitCtr ≤ max s.params.tDb s.params.tHo
  slots_isOn : ∀ m, s.nSlots ≤ m → s.isOn.getLsbD m = false
  slots_ind : ∀ m, s.nSlots ≤ m → s.ind.getLsbD m = false
  slots_pins : ∀ m, s.nSlots ≤ m → s.pins.getLsbD m = false

/-- A run of any length from here answers a next state at every step: no fault and no refusal (R300: no condition is fatal). -/
def NeverStops (s : State) : Prop := ∀ k, ∃ t, Sys2Proof.core.run k s = .next t

end Sys2Proof.Machine
end

