-- ==== Sys2Proof/Certificates/Slice0/Obligations.lean ====
section
/-! DEFINITION. The statements for the provers, and the few reference notions they are written in. In every statement `result`
(log 3), `input` (log 4), `params` (log 6) and the form of a model outcome, a next state that records it (log 1), are the model's. -/

open Sys2Proof Sys2Proof.Machine

namespace Sys2Proof.Spec

/-! ### Reference notions: the rules' own words, beside the model's functions -/

/-- The state after a model outcome: recorded in the sticky set, reported, nothing else changed (R301; that the run goes on from it
is the model's reading, log 1). -/
def recorded (e : ModelOutcome) (s : State) : State :=
  { s with sticky := if e ∈ s.sticky then s.sticky else s.sticky ++ [e], result := .raised e }

/-- `ind'` is the indicator register after the Output Driver received `set(k, on)` at `ind` (R160-R163). -/
def IndAfterSet (p : Params) (k : Nat) (on : Bool) (ind ind' : SlotBits) : Prop :=
  ∀ m, m < 16 → ind'.getLsbD m =
    if hasIndicator p k = false then ind.getLsbD m
    else if m = k then on
    else if on = true ∧ isMomentary p k = true ∧ m < p.nSlots ∧ isMomentary p m = true ∧ hasIndicator p m = true then false
    else ind.getLsbD m

/-- `v'` is `v` with bit `k` replaced by `b`. -/
def BitReplaced (k : Nat) (b : Bool) (v v' : SlotBits) : Prop :=
  ∀ m, m < 16 → v'.getLsbD m = if m = k then b else v.getLsbD m

/-- `advance()` (R262), ending a step that answers nothing. -/
def advanced (s : State) : State :=
  if s.seqSlot.toNat < s.nSlots - 1 then
    { s with seqSlot := BitVec.ofNat 4 (s.seqSlot.toNat + 1), phase := .sample, result := .done }
  else { s with phase := .midi, result := .done }

/-- Momentary slot `m` is pressed in the snapshot (R131). -/
def MomentaryPressed (p : Params) (snap : SlotBits) (m : Nat) : Prop :=
  m < p.nSlots ∧ isMomentary p m = true ∧ snap.getLsbD m = false

/-- One tick (the body of R266's loop). -/
def oneTick (s : State) : State :=
  if (s.phase = .debounce ∨ s.phase = .holdoff) ∧ 0 < s.waitCtr then { s with waitCtr := s.waitCtr - 1 } else s

/-- The calls a CC pair makes, in ascending slot order (R240). -/
def commands (p : Params) (cc val : Data7) : List SetCall :=
  ((List.range p.nSlots).filter (fun i => ccNumber p i = cc)).map
    (fun i => ⟨i, isMomentary p i || val == onValue p i⟩)

/-- `ind'` is reached from `ind` by the Output Driver receiving the calls in order. -/
def IndAfterCalls (p : Params) : List SetCall → SlotBits → SlotBits → Prop
  | [], ind, ind' => ind' = ind
  | c :: l, ind, ind' => ∃ w, IndAfterSet p c.slot c.on ind w ∧ IndAfterCalls p l w ind'

/-- The reserved bits of a word with this opcode on a block of `n` slots (R108, R112). -/
def reservedBits (n : Nat) (op : Nat) : OpWord :=
  match op with
  | 0x1 => 0x0FFF00#24
  | 0x2 => 0x0FFFFF#24
  | 0x3 => 0x0FFFFF#24
  | 0x4 => 0x0FFF00#24
  | 0x5 => 0x00FFFF#24
  | 0x6 => 0x007FFF#24
  | 0x7 => 0x0F8080#24
  | 0x8 => 0x007FFF#24
  | 0x9 => 0x0FFFFF#24
  | 0xA => 0x0F0000#24
  | 0xB => BitVec.ofNat 24 (0x100000 - 2 ^ n)
  | 0xC => 0x0FFFF0#24
  | _ => 0#24

/-- The operation hands a byte to the parser: PARSE and the six byte classes. -/
def takesAByte (i : Instr) : Prop := (∃ b, i = .parse b) ∨ ∃ b, encode i = .midi b

/-- A run of ring operations, `some b` a PUSH and `none` a POP: the accepted bytes, the bytes popped, the end state. -/
def ringRun : List (Option Byte) → State → Option (List Byte × List Byte × State)
  | [], s => some ([], [], s)
  | some b :: l, s =>
    match exec (.push b) s with
    | .next t =>
      (ringRun l t).map (fun r => (if s.count = s.params.rbCap then r.1 else b :: r.1, r.2.1, r.2.2))
    | .fault _ => none
    | .refused _ => none
  | none :: l, s =>
    match exec .pop s with
    | .next t =>
      (ringRun l t).map (fun r => (r.1, (match t.result with | .byte b => b :: r.2.1 | _ => r.2.1), r.2.2))
    | .fault _ => none
    | .refused _ => none

end Sys2Proof.Spec

open Sys2Proof.Spec

/-! ### Encoding -/

/-- Decoding an encoded well-formed operation gives it back, whatever its operands (R105, R107-R112). -/
def Obligations.EncodedOperationsDecodeBack : Prop :=
  ∀ (c : DecodeCtx) (i : Instr), i.wellFormed c = true → decodeCode c (encode i) = .ok i

/-- What decodes is well-formed and is spelt by no other word: no bit of a word is ignored (R112). -/
def Obligations.DecodedWordsEncodeBack : Prop :=
  ∀ (c : DecodeCtx) (w : CodeWord) (i : Instr), decodeCode c w = .ok i → i.wellFormed c = true ∧ encode i = w

/-- The words of R115's table. -/
def Obligations.OperationWordsOfTheSyntaxTable : Prop :=
  (∀ b : Byte, encode (.push b) = .op (0x100000#24 ||| b.setWidth 24)) ∧
  encode .pop = .op 0x200000#24 ∧
  encode .avail = .op 0x300000#24 ∧
  (∀ b : Byte, encode (.parse b) = .op (0x400000#24 ||| b.setWidth 24)) ∧
  (∀ s : SlotIdx, encode (.poll s) = .op (0x500000#24 ||| s.setWidth 24 <<< 16)) ∧
  (∀ s : SlotIdx, encode (.set s true) = .op (0x600000#24 ||| s.setWidth 24 <<< 16 ||| 1#24 <<< 15)) ∧
  (∀ s : SlotIdx, encode (.set s false) = .op (0x600000#24 ||| s.setWidth 24 <<< 16)) ∧
  (∀ cc val : Data7, encode (.onmidi cc val) = .op (0x700000#24 ||| cc.setWidth 24 <<< 8 ||| val.setWidth 24)) ∧
  (∀ s : SlotIdx, encode (.onswitch s true) = .op (0x800000#24 ||| s.setWidth 24 <<< 16 ||| 1#24 <<< 15)) ∧
  (∀ s : SlotIdx, encode (.onswitch s false) = .op (0x800000#24 ||| s.setWidth 24 <<< 16)) ∧
  encode .step = .op 0x900000#24 ∧
  (∀ n : BitVec 16, encode (.tick n) = .op (0xA00000#24 ||| n.setWidth 24)) ∧
  (∀ v : BitVec 16, encode (.pins v) = .op (0xB00000#24 ||| v.setWidth 24)) ∧
  (∀ ch : BitVec 4, encode (.reset ch) = .op (0xC00000#24 ||| ch.setWidth 24))

/-- A few words of 95_test_vectors decode to the operations they stand for (V32, V5, V12, V16). -/
def Obligations.KnownWordsDecode : Prop :=
  decodeOp 4 0x658000#24 = .ok (.set 5#4 true) ∧
  decodeOp 4 0x5F0000#24 = .ok (.poll 15#4) ∧
  decodeOp 4 0xA0FFFF#24 = .ok (.tick 0xFFFF#16) ∧
  decodeOp 4 0x707F7F#24 = .ok (.onmidi 127#7 127#7) ∧
  decodeOp 4 0x70677F#24 = .ok (.onmidi 103#7 127#7) ∧
  decodeOp 4 0x900000#24 = .ok .step ∧
  decodeOp 4 0xB00010#24 = .error (.reservedBits 0xB00010#24) ∧
  decodeOp 4 0x7F7F7F#24 = .error (.reservedBits 0x7F7F7F#24)

/-- R105's decode table: every byte has one class in each of the three parser states. -/
def Obligations.MidiByteDecodeTable : Prop :=
  ∀ (chan : BitVec 4) (b : Byte),
    (b = 0xB0#8 ||| chan.setWidth 8 → decodeMidi pstateS0 chan b = .ok (.midiCcsMatch chan)) ∧
    (b ≠ 0xB0#8 ||| chan.setWidth 8 → decodeMidi pstateS0 chan b = .ok (.midiS0Ignore b)) ∧
    (b.getLsbD 7 = false → decodeMidi pstateS1 chan b = .ok (.midiS1Data (b.setWidth 7))) ∧
    (b.getLsbD 7 = true → decodeMidi pstateS1 chan b = .ok (.midiS1Status (b.setWidth 7))) ∧
    (b.getLsbD 7 = false → decodeMidi pstateS2 chan b = .ok (.midiS2Data (b.setWidth 7))) ∧
    (b.getLsbD 7 = true → decodeMidi pstateS2 chan b = .ok (.midiS2Status (b.setWidth 7)))

/-- A word with a reserved opcode: REFUSED_ENCODING, with the word recorded and nothing else changed but the event taken (R111);
so too for the operation it decodes to. -/
def Obligations.ReservedOpcodesAreRefused : Prop :=
  (∀ (s : State) (w : OpWord) (rest : List Input), s.input = .code (.op w) :: rest →
    (w >>> 20 = 0x0#24 ∨ w >>> 20 = 0xD#24 ∨ w >>> 20 = 0xE#24 ∨ w >>> 20 = 0xF#24) →
    step s = .next (recorded (.refusedEncoding w) { s with input := rest })) ∧
  (∀ (s : State) (op : BitVec 4) (rest : BitVec 20),
    exec (.reserved op rest) s = .next (recorded (.refusedEncoding (op.setWidth 24 <<< 20 ||| rest.setWidth 24)) s))

/-- A word with a reserved bit set is refused the same way, and every word is one of the twelve operations or refused (R112). -/
def Obligations.ReservedBitsAreRefused : Prop :=
  (∀ (s : State) (w : OpWord) (rest : List Input), s.input = .code (.op w) :: rest → s.nSlots ≤ 16 →
    w &&& reservedBits s.nSlots (w >>> 20).toNat ≠ 0#24 →
    step s = .next (recorded (.refusedEncoding w) { s with input := rest })) ∧
  (∀ (s : State) (w : OpWord) (rest : List Input), s.input = .code (.op w) :: rest →
    (∃ i, decodeOp s.nSlots w = .ok i ∧ (∀ o r, i ≠ .reserved o r) ∧ (∀ b, encode i ≠ .midi b)) ∨
      step s = .next (recorded (.refusedEncoding w) { s with input := rest }))

/-- The fields of a configuration word (R40). -/
def Obligations.ConfigurationWordLayout : Prop :=
  ∀ (p : Params) (k : Nat),
    (ccNumber p k).toNat = (cfgRead p k).toNat % 128 ∧
    (onValue p k).toNat = (cfgRead p k).toNat / 2 ^ 8 % 128 ∧
    (offValue p k).toNat = (cfgRead p k).toNat / 2 ^ 16 % 128 ∧
    isMomentary p k = decide ((cfgRead p k).toNat / 2 ^ 24 % 2 = 1) ∧
    hasIndicator p k = decide ((cfgRead p k).toNat / 2 ^ 25 % 2 = 1) ∧
    (cfgReservedSet p k = false ↔
      ∀ j, j < 32 → (j = 7 ∨ j = 15 ∨ j = 23 ∨ 26 ≤ j) → (cfgRead p k).getLsbD j = false)

/-! ### Taking the next event -/

/-- A step takes the next event and runs the operation it decodes to; nothing else is added around it. -/
def Obligations.StepRunsTheDecodedOperation : Prop :=
  ∀ (s : State) (c : CodeWord) (rest : List Input) (i : Instr), s.input = .code c :: rest →
    decodeCode ⟨s.nSlots, s.pstate, s.chanBits⟩ c = .ok i → step s = exec i { s with input := rest }

/-- The model's choice (log 5): with no event waiting a step is SEQ's when it is enabled, and one tick while SEQ is held. -/
def Obligations.IdleStepRunsTheLoop : Prop :=
  ∀ s : State, s.input = [] →
    (held s = false → step s = exec .step s) ∧ (held s = true → step s = exec (.tick 1#16) s)

/-- A byte that arrives in the clock cycle of a MIDI step: after both events count' = count + push_accepted - pop_taken, with
push_accepted decided against the count the serialisation gives (R81; COLLISION_ORDER, R14; the event itself is log 13). -/
def Obligations.SameCycleCountsPushAndPop : Prop :=
  ∀ (s : State) (b : Byte) (rest : List Input), RingOk s → RegistersOk s → s.phase = .midi → s.input = .sameCycle b :: rest →
    (s.params.collisionOrder = .loopFirst → ∃ t, Sys2Proof.core.run 2 s = .next t ∧ t.input = rest ∧
      t.count + min s.count 1 = s.count + (if s.count - min s.count 1 = s.params.rbCap then 0 else 1)) ∧
    (s.params.collisionOrder = .pushFirst → ∃ t, Sys2Proof.core.run 2 s = .next t ∧ t.input = rest ∧
      t.count + 1 = s.count + (if s.count = s.params.rbCap then 0 else 1))

/-! ### Ring buffer -/

/-- PUSH (R181): a full buffer drops the byte and nothing changes; else the advanced head's cell gets the byte and every other
cell reads as before. -/
def Obligations.PushStoresOrDrops : Prop :=
  ∀ (b : Byte) (s : State),
    (s.count = s.params.rbCap → exec (.push b) s = .next { s with result := .done }) ∧
    (s.count ≠ s.params.rbCap → ∃ m : List Host.Cell,
      exec (.push b) s = .next { s with
        head := (s.head + 1) % s.params.rbCap, rb := m, count := s.count + 1, result := .done } ∧
      Memory.read m ((s.head + 1) % s.params.rbCap) = some b ∧
      ∀ a, a ≠ (s.head + 1) % s.params.rbCap → Memory.read m a = Memory.read s.rb a)

/-- POP (R183): F_POP_EMPTY on an empty buffer, else the oldest live byte is returned and removed; the cell keeps its byte. -/
def Obligations.PopReturnsTheOldestByte : Prop :=
  ∀ s : State,
    (s.count = 0 → exec .pop s = .next (recorded (.popEmpty 0x200000#24) s)) ∧
    (∀ (b : Byte) (l : List (Option Byte)), liveCells s = some b :: l →
      exec .pop s = .next { s with
        tail := (s.tail + 1) % s.params.rbCap, count := s.count - 1, result := .byte b })

/-- AVAIL returns the count and writes nothing (R184). -/
def Obligations.AvailReturnsTheCount : Prop :=
  ∀ s : State, exec .avail s = .next { s with result := .count s.count }

/-- The model's own fault (log 9; R57 allows it): a POP, and a STEP that would pop, whose cell holds no value. -/
def Obligations.UnwrittenCellFaults : Prop :=
  ∀ s : State, 0 < s.count → rbRead s (s.tail + 1) = none →
    exec .pop s = .fault .ringCellNoValue ∧ (s.phase = .midi → exec .step s = .fault .ringCellNoValue)

/-- One ring operation on the live bytes (R185): a push on a buffer with room adds the byte at the end, a push on a full buffer
leaves them, a pop takes the first. -/
def Obligations.RingOperationsKeepTheOrder : Prop :=
  ∀ s : State, RingOk s →
    (∀ b : Byte, s.count ≠ s.params.rbCap →
      ∃ t, exec (.push b) s = .next t ∧ liveCells t = liveCells s ++ [some b] ∧ t.count = s.count + 1) ∧
    (∀ b : Byte, s.count = s.params.rbCap →
      ∃ t, exec (.push b) s = .next t ∧ liveCells t = liveCells s ∧ t.count = s.count) ∧
    (0 < s.count → ∃ t b, exec .pop s = .next t ∧ t.result = .byte b ∧ liveCells s = some b :: liveCells t)

/-- The FIFO law over every run of pushes and pops (R82): the bytes popped, then the bytes left, are the bytes there were, then
the accepted ones, in order. -/
def Obligations.PopsReturnAcceptedPushesInOrder : Prop :=
  ∀ (ops : List (Option Byte)) (s : State), RingOk s →
    ∃ accepted popped t, ringRun ops s = some (accepted, popped, t) ∧ RingOk t ∧
      liveCells s ++ accepted.map some = popped.map some ++ liveCells t

/-- The receive interrupt changes the state of PUSH and nothing else: no saved state, no move of the sequencer (R308). On a full
buffer it leaves the ring as it was; otherwise `head` advances, its cell holds the byte and `count` rises by one; in both cases
every cell but the one at the advanced `head` reads as before. -/
def Obligations.ReceiveInterruptTouchesOnlyTheRing : Prop :=
  ∀ (b : Byte) (s : State), ∃ t, exec (.push b) s = .next t ∧
    t = { s with head := t.head, rb := t.rb, count := t.count, result := .done } ∧
    (s.count = s.params.rbCap → t.head = s.head ∧ t.rb = s.rb ∧ t.count = s.count) ∧
    (s.count ≠ s.params.rbCap → t.head = (s.head + 1) % s.params.rbCap ∧ t.count = s.count + 1 ∧
      Memory.read t.rb ((s.head + 1) % s.params.rbCap) = some b) ∧
    ∀ a, a ≠ (s.head + 1) % s.params.rbCap → Memory.read t.rb a = Memory.read s.rb a

/-! ### Parser -/

/-- The six arms of PARSE (R211-R216), each whole: everything not named is unchanged. -/
def Obligations.ParserTransitions : Prop :=
  ∀ (b : Byte) (s : State),
    (s.pstate = 0b00#2 → b = 0xB0#8 ||| s.chanBits.setWidth 8 →
      exec (.parse b) s = .next { s with pstate := 0b01#2, result := .done }) ∧
    (s.pstate = 0b00#2 → b ≠ 0xB0#8 ||| s.chanBits.setWidth 8 → exec (.parse b) s = .next { s with result := .done }) ∧
    (s.pstate = 0b01#2 → b.getLsbD 7 = false →
      exec (.parse b) s = .next { s with pending := b.setWidth 7, pstate := 0b10#2, result := .done }) ∧
    (s.pstate = 0b01#2 → b.getLsbD 7 = true → exec (.parse b) s = .next { s with pstate := 0b00#2, result := .done }) ∧
    (s.pstate = 0b10#2 → b.getLsbD 7 = false → ∃ t, exec (.onmidi s.pending (b.setWidth 7)) s = .next t ∧
      exec (.parse b) s = .next { t with pstate := 0b00#2 }) ∧
    (s.pstate = 0b10#2 → b.getLsbD 7 = true → exec (.parse b) s = .next { s with pstate := 0b00#2, result := .done })

/-- In the code that is no parser state, PARSE is REFUSED_STATE and changes nothing else (R218); a STEP that would parse a byte
there does the same and pops nothing (log 11). -/
def Obligations.ParserRefusesTheIllegalState : Prop :=
  ∀ (b : Byte) (s : State), s.pstate = 0b11#2 →
    exec (.parse b) s = .next (recorded (.refusedState b) s) ∧
    (∀ l, s.phase = .midi → liveCells s = some b :: l → exec .step s = .next (recorded (.refusedState b) s))

/-- Each byte class, in its parser state (and, in S0, on its side of the channel test), takes the transition of its rule. -/
def Obligations.ByteClassesTakeTheirTransitions : Prop :=
  (∀ (ch : BitVec 4) (s : State), s.pstate = 0b00#2 → ch = s.chanBits →
    exec (.midiCcsMatch ch) s = .next { s with pstate := 0b01#2, result := .done }) ∧
  (∀ (b : Byte) (s : State), s.pstate = 0b00#2 → b ≠ 0xB0#8 ||| s.chanBits.setWidth 8 →
    exec (.midiS0Ignore b) s = .next { s with result := .done }) ∧
  (∀ (d : Data7) (s : State), s.pstate = 0b01#2 →
    exec (.midiS1Data d) s = .next { s with pending := d, pstate := 0b10#2, result := .done }) ∧
  (∀ (d : Data7) (s : State), s.pstate = 0b01#2 →
    exec (.midiS1Status d) s = .next { s with pstate := 0b00#2, result := .done }) ∧
  (∀ (d : Data7) (s : State), s.pstate = 0b10#2 → ∃ t, exec (.onmidi s.pending d) s = .next t ∧
    exec (.midiS2Data d) s = .next { t with pstate := 0b00#2 }) ∧
  (∀ (d : Data7) (s : State), s.pstate = 0b10#2 →
    exec (.midiS2Status d) s = .next { s with pstate := 0b00#2, result := .done })

/-- The model's reading of a byte class as an operation (log 12): in every state it does what PARSE of its byte does. -/
def Obligations.ByteClassActsAsParseOfItsByte : Prop :=
  ∀ (i : Instr) (b : Byte) (s : State), encode i = .midi b → exec i s = exec (.parse b) s

/-- Resynchronisation (R217): from S0 the three bytes of a message make exactly the dispatch of its pair and end in S0; from S2 any
byte leads to S0; from S1 a status byte leads to S0, and a data byte to S2, from which any second byte leads to S0. -/
def Obligations.ParserResynchronises : Prop :=
  (∀ (n v : Data7) (s : State), s.pstate = 0b00#2 → ∃ t1 t2 t3 u,
    exec (.parse (0xB0#8 ||| s.chanBits.setWidth 8)) s = .next t1 ∧ exec (.parse (n.setWidth 8)) t1 = .next t2 ∧
    exec (.parse (v.setWidth 8)) t2 = .next t3 ∧ exec (.onmidi n v) s = .next u ∧ t3 = { u with pending := n }) ∧
  (∀ (b : Byte) (s : State), s.pstate = 0b10#2 → ∃ t, exec (.parse b) s = .next t ∧ t.pstate = 0b00#2) ∧
  (∀ (b c : Byte) (s : State), s.pstate = 0b01#2 → ∃ t u, exec (.parse b) s = .next t ∧
    ((t.pstate = 0b00#2 ∧ b.getLsbD 7 = true) ∨
      (t.pstate = 0b10#2 ∧ b.getLsbD 7 = false ∧ exec (.parse c) t = .next u ∧ u.pstate = 0b00#2)))

/-! ### Dispatcher and Output Driver -/

/-- ONMIDI (R240): every matching slot is commanded, in ascending order, a momentary one on and a latching one on exactly for its on
value; only the trace and the indicators change. -/
def Obligations.OnmidiCommandsEveryMatch : Prop :=
  ∀ (cc val : Data7) (s : State), ∃ w, IndAfterCalls s.params (commands s.params cc val) s.ind w ∧
    exec (.onmidi cc val) s = .next { s with trace := s.trace ++ commands s.params cc val, ind := w, result := .done }

/-- When momentary slots with an indicator match, the highest-numbered of them is the one momentary indicator left lit (R242). -/
def Obligations.HighestMomentaryMatchStaysLit : Prop :=
  ∀ (cc val : Data7) (s : State) (k : Nat), s.nSlots ≤ 16 → k < s.nSlots →
    isMomentary s.params k = true → hasIndicator s.params k = true → ccNumber s.params k = cc →
    (∀ m, k < m → m < s.nSlots → isMomentary s.params m = true → hasIndicator s.params m = true → ccNumber s.params m ≠ cc) →
    ∃ t, exec (.onmidi cc val) s = .next t ∧
      ∀ m, m < s.nSlots → isMomentary s.params m = true → hasIndicator s.params m = true →
        t.ind.getLsbD m = decide (m = k)

/-- SET (R160-R163): the call is traced, and the indicators change as the rules say; a slot that does not exist is
F_BAD_SLOT (R113, R301), a next state that records it (the model's reading, log 1). -/
def Obligations.SetDrivesTheIndicators : Prop :=
  ∀ (slot : SlotIdx) (on : Bool) (s : State),
    (slot.toNat < s.nSlots → ∃ w, IndAfterSet s.params slot.toNat on s.ind w ∧
      exec (.set slot on) s = .next { s with trace := s.trace ++ [⟨slot.toNat, on⟩], ind := w, result := .done }) ∧
    (s.nSlots ≤ slot.toNat → exec (.set slot on) s = .next (recorded (.badSlot (wordSet slot on) slot) s))

/-- How the pins show the register (R47, R167): a slot has a pin exactly when it exists and has an indicator, the pin carries the
slot's bit of `ind`, and after a SET it carries the commanded level. -/
def Obligations.IndicatorPinsShowTheRegister : Prop :=
  (∀ (s : State) (k : Nat), (k < s.nSlots ∧ hasIndicator s.params k = true → indicatorPin s k = some (s.ind.getLsbD k)) ∧
    (s.nSlots ≤ k ∨ hasIndicator s.params k = false → indicatorPin s k = none)) ∧
  (∀ (slot : SlotIdx) (on : Bool) (s : State), slot.toNat < s.nSlots → hasIndicator s.params slot.toNat = true →
    ∃ t, exec (.set slot on) s = .next t ∧ indicatorPin t slot.toNat = some on)

/-- ONSWITCH is `set(s, on)`, and F_BAD_SLOT for a slot that does not exist (R243). -/
def Obligations.OnswitchCommandsTheSlot : Prop :=
  ∀ (slot : SlotIdx) (on : Bool) (s : State),
    (slot.toNat < s.nSlots → ∃ w, IndAfterSet s.params slot.toNat on s.ind w ∧
      exec (.onswitch slot on) s = .next { s with trace := s.trace ++ [⟨slot.toNat, on⟩], ind := w, result := .done } ∧
      exec (.onswitch slot on) s = exec (.set slot on) s) ∧
    (s.nSlots ≤ slot.toNat → exec (.onswitch slot on) s = .next (recorded (.badSlot (wordOnswitch slot on) slot) s))

/-- A slot operand at or above N_SLOTS raises F_BAD_SLOT, with the word and the slot recorded, before any other effect (R113). -/
def Obligations.SlotOutOfRangeRaisesBadSlot : Prop :=
  ∀ (slot : SlotIdx) (on : Bool) (s : State), s.nSlots ≤ slot.toNat →
    exec (.poll slot) s = .next (recorded (.badSlot (0x500000#24 ||| slot.setWidth 24 <<< 16) slot) s) ∧
    exec (.set slot on) s =
      .next (recorded (.badSlot (0x600000#24 ||| slot.setWidth 24 <<< 16 ||| (BitVec.ofBool on).setWidth 24 <<< 15) slot) s) ∧
    exec (.onswitch slot on) s =
      .next (recorded (.badSlot (0x800000#24 ||| slot.setWidth 24 <<< 16 ||| (BitVec.ofBool on).setWidth 24 <<< 15) slot) s)

/-! ### Debounce engine -/

/-- The exclusivity rule (R131) and what it means for a snapshot (R132): with two momentary slots pressed no slot reads pressed,
with exactly one that one alone does. -/
def Obligations.ExclusivityOnASnapshot : Prop :=
  ∀ (p : Params) (snap : SlotBits),
    (∀ a b, a ≠ b → MomentaryPressed p snap a → MomentaryPressed p snap b → ∀ k, excl p snap k = false) ∧
    (∀ m, MomentaryPressed p snap m → (∀ j, MomentaryPressed p snap j → j = m) →
      excl p snap m = true ∧ ∀ k, k ≠ m → excl p snap k = false)

/-- POLL (R142): one whole poll of the slot with the level held stable; the sequencer does not move. -/
def Obligations.PollRunsOneWholePoll : Prop :=
  ∀ (slot : SlotIdx) (s : State),
    (slot.toNat < s.nSlots → isMomentary s.params slot.toNat = true →
      (excl s.params s.pins slot.toNat ≠ s.isOn.getLsbD slot.toNat → ∃ v w,
        BitReplaced slot.toNat (!excl s.params s.pins slot.toNat) s.isOn v ∧ IndAfterSet s.params slot.toNat true s.ind w ∧
        exec (.poll slot) s = .next { s with
          isOn := v, trace := s.trace ++ [⟨slot.toNat, true⟩], ind := w, result := .done }) ∧
      (excl s.params s.pins slot.toNat = s.isOn.getLsbD slot.toNat → exec (.poll slot) s = .next { s with result := .done })) ∧
    (slot.toNat < s.nSlots → isMomentary s.params slot.toNat = false →
      (s.pins.getLsbD slot.toNat = false → ∃ v w,
        BitReplaced slot.toNat (!s.isOn.getLsbD slot.toNat) s.isOn v ∧
        IndAfterSet s.params slot.toNat (!s.isOn.getLsbD slot.toNat) s.ind w ∧
        exec (.poll slot) s = .next { s with
          isOn := v, trace := s.trace ++ [⟨slot.toNat, !s.isOn.getLsbD slot.toNat⟩], ind := w, result := .done }) ∧
      (s.pins.getLsbD slot.toNat = true → exec (.poll slot) s = .next { s with result := .done })) ∧
    (s.nSlots ≤ slot.toNat → exec (.poll slot) s = .next (recorded (.badSlot (wordPoll slot) slot) s))

/-- STEP in SAMPLE (R135, R139): a momentary slot enters the window when its exclusive reading differs from `is_on`, a latching slot
when its switch reads pressed; else the position advances. -/
def Obligations.StepSamplesASlot : Prop :=
  ∀ s : State, s.phase = .sample → s.seqSlot.toNat < s.nSlots →
    (isMomentary s.params s.seqSlot.toNat = true →
      (excl s.params s.pins s.seqSlot.toNat ≠ s.isOn.getLsbD s.seqSlot.toNat →
        exec .step s = .next { s with waitCtr := s.params.tDb, phase := .debounce, result := .done }) ∧
      (excl s.params s.pins s.seqSlot.toNat = s.isOn.getLsbD s.seqSlot.toNat → exec .step s = .next (advanced s))) ∧
    (isMomentary s.params s.seqSlot.toNat = false →
      (s.pins.getLsbD s.seqSlot.toNat = false →
        exec .step s = .next { s with waitCtr := s.params.tDb, phase := .debounce, result := .done }) ∧
      (s.pins.getLsbD s.seqSlot.toNat = true → exec .step s = .next (advanced s)))

/-- The momentary confirm (R136): the dispatch always carries true, and `is_on` ends inverted. -/
def Obligations.StepConfirmsMomentary : Prop :=
  ∀ s : State, s.phase = .debounce → s.waitCtr = 0 → s.seqSlot.toNat < s.nSlots →
    isMomentary s.params s.seqSlot.toNat = true →
    (excl s.params s.pins s.seqSlot.toNat = s.isOn.getLsbD s.seqSlot.toNat → exec .step s = .next (advanced s)) ∧
    (excl s.params s.pins s.seqSlot.toNat ≠ s.isOn.getLsbD s.seqSlot.toNat → ∃ v w,
      BitReplaced s.seqSlot.toNat (!excl s.params s.pins s.seqSlot.toNat) s.isOn v ∧
      IndAfterSet s.params s.seqSlot.toNat true s.ind w ∧
      exec .step s = .next (advanced { s with isOn := v, trace := s.trace ++ [⟨s.seqSlot.toNat, true⟩], ind := w }))

/-- The latching confirm (R140): the flip, its command and the hold-off; with LATCH_REQUIRE_CONFIRM a released switch only advances. -/
def Obligations.StepConfirmsLatching : Prop :=
  ∀ s : State, s.phase = .debounce → s.waitCtr = 0 → s.seqSlot.toNat < s.nSlots →
    isMomentary s.params s.seqSlot.toNat = false →
    (s.params.latchRequireConfirm = true ∧ s.pins.getLsbD s.seqSlot.toNat = true → exec .step s = .next (advanced s)) ∧
    (¬ (s.params.latchRequireConfirm = true ∧ s.pins.getLsbD s.seqSlot.toNat = true) → ∃ v w,
      BitReplaced s.seqSlot.toNat (!s.isOn.getLsbD s.seqSlot.toNat) s.isOn v ∧
      IndAfterSet s.params s.seqSlot.toNat (!s.isOn.getLsbD s.seqSlot.toNat) s.ind w ∧
      exec .step s = .next { s with
        isOn := v, trace := s.trace ++ [⟨s.seqSlot.toNat, !s.isOn.getLsbD s.seqSlot.toNat⟩], ind := w,
        waitCtr := s.params.tHo, phase := .holdoff, result := .done })

/-- POLL refines the sequencer's own poll of the slot (R142): with the level stable, STEP, T_DB ticks and STEP leave the same `is_on`,
indicators and trace as one POLL. -/
def Obligations.PollAgreesWithTheSequencer : Prop :=
  ∀ s : State, s.phase = .sample → s.seqSlot.toNat < s.nSlots → s.params.tDb < 2 ^ 16 →
    ∃ p a, exec (.poll s.seqSlot) s = .next p ∧ exec .step s = .next a ∧
      (a.phase ≠ .debounce → p.isOn = s.isOn ∧ p.ind = s.ind ∧ p.trace = s.trace) ∧
      (a.phase = .debounce → ∃ b c, exec (.tick (BitVec.ofNat 16 s.params.tDb)) a = .next b ∧ exec .step b = .next c ∧
        c.isOn = p.isOn ∧ c.ind = p.ind ∧ c.trace = p.trace)

/-! ### Control loop, time, inputs, reset -/

/-- STEP in HOLDOFF advances once the wait has ended (R264); while a wait is on STEP answers HELD and changes nothing
(R263, R268, R301); that HELD is a next state with its result is the model's reading (log 1). -/
def Obligations.StepWaitsThenLeavesTheHoldoff : Prop :=
  ∀ s : State,
    (s.phase = .holdoff → s.waitCtr = 0 → exec .step s = .next (advanced s)) ∧
    (s.phase = .debounce ∨ s.phase = .holdoff → 0 < s.waitCtr → exec .step s = .next { s with result := .held })

/-- STEP in MIDI (R265): nothing to drain, or the oldest byte popped and parsed, and the next pass begins at slot 0. -/
def Obligations.StepDrainsOneByte : Prop :=
  ∀ s : State, s.phase = .midi →
    (s.count = 0 → exec .step s = .next { s with seqSlot := 0#4, phase := .sample, result := .done }) ∧
    (∀ b l, liveCells s = some b :: l → s.pstate ≠ 0b11#2 → ∃ u,
      exec (.parse b) { s with tail := (s.tail + 1) % s.params.rbCap, count := s.count - 1 } = .next u ∧
      exec .step s = .next { u with seqSlot := 0#4, phase := .sample })

/-- The model's own fault (log 10): a sample or confirm step at a position that names no slot. -/
def Obligations.StepAtNoSlotFaults : Prop :=
  ∀ s : State, s.nSlots ≤ s.seqSlot.toNat → s.phase = .sample ∨ (s.phase = .debounce ∧ s.waitCtr = 0) →
    exec .step s = .fault .seqSlotNoSlot

/-- TICK n is n ticks one after another (R266), and changes `wait_ctr` alone. -/
def Obligations.TickIsRepeatedTick : Prop :=
  ∀ (n : BitVec 16) (s : State),
    exec (.tick n) s = .next { (oneTick^[n.toNat] s) with result := .done } ∧
    oneTick^[n.toNat] s = { s with waitCtr := (oneTick^[n.toNat] s).waitCtr }

/-- PINS v: `pins <- v[N_SLOTS-1:0]` (R267). -/
def Obligations.PinsSetsTheLevels : Prop :=
  ∀ (v : BitVec 16) (s : State), ∃ w : SlotBits,
    (∀ m, m < 16 → w.getLsbD m = (decide (m < s.nSlots) && v.getLsbD m)) ∧
    (s.nSlots ≤ 16 → v.toNat < 2 ^ s.nSlots → w = v) ∧
    exec (.pins v) s = .next { s with pins := w, result := .done }

/-- RESET ch on a legal configuration (R340-R342): every element at its reset value (R58); the levels, the parameters and the
sticky set stay, and so do the events to come, which is the model's choice (log 4). -/
def Obligations.ResetLeavesTheResetState : Prop :=
  ∀ (ch : BitVec 4) (s : State), (∀ k, k < s.nSlots → cfgReservedSet s.params k = false) → ∃ v w : SlotBits,
    (∀ m, m < 16 → v.getLsbD m = (decide (m < s.nSlots) && !isMomentary s.params m && !s.pins.getLsbD m)) ∧
    (∀ m, m < 16 → w.getLsbD m = (s.params.bootShowLatch && hasIndicator s.params m && v.getLsbD m)) ∧
    exec (.reset ch) s = .next { s with
      isOn := v, ind := w, rb := [], head := 0, tail := 0, count := 0, chanBits := ch, pstate := 0b00#2, pending := 0#7,
      phase := .sample, seqSlot := 0#4, waitCtr := 0, trace := [], result := .done }

/-- RESET with a reserved bit set in a CFG word: F_CONFIG, no state changed (R343); the slot recorded is the first such (log 16). -/
def Obligations.ResetRefusesABadConfiguration : Prop :=
  ∀ (ch : BitVec 4) (s : State) (k : Nat), k < s.nSlots → cfgReservedSet s.params k = true →
    (∀ j, j < k → cfgReservedSet s.params j = false) → exec (.reset ch) s = .next (recorded (.config k) s)

/-- The state after reset is what RESET 0 makes of itself (R58), for the model's reset parameters and levels (logs 7, 8). -/
def Obligations.ResetStateIsAFixedPoint : Prop := exec (.reset 0#4) State.reset = .next State.reset

/-- PASS_IDLE (R116): with every switch released and the buffer empty, N_SLOTS + 1 STEPs are one whole pass and change nothing. -/
def Obligations.IdlePassReturnsToSlotZero : Prop :=
  ∀ s : State, 1 ≤ s.nSlots → s.nSlots ≤ 16 → s.phase = .sample → s.seqSlot = 0#4 → s.count = 0 → MomentaryOk s →
    (∀ m, m < s.nSlots → s.pins.getLsbD m = true) →
    s.input = (pseudoPassIdle s.nSlots).map (fun i => .code (encode i)) →
    Sys2Proof.core.run (s.nSlots + 1) s = .next { s with input := [], result := .done }

/-- MIDI and a latching switch out of step (R247): where a latching indicator and `is_on` disagree, the next press changes nothing
visible, and the one after it does. -/
def Obligations.LatchingDesyncTakesTwoPresses : Prop :=
  ∀ (slot : SlotIdx) (s : State), slot.toNat < s.nSlots → isMomentary s.params slot.toNat = false →
    hasIndicator s.params slot.toNat = true → s.pins.getLsbD slot.toNat = false →
    s.ind.getLsbD slot.toNat ≠ s.isOn.getLsbD slot.toNat →
    ∃ t u, exec (.poll slot) s = .next t ∧ exec (.poll slot) t = .next u ∧
      t.isOn.getLsbD slot.toNat = !s.isOn.getLsbD slot.toNat ∧ t.ind = s.ind ∧
      u.isOn.getLsbD slot.toNat = s.isOn.getLsbD slot.toNat ∧ u.ind.getLsbD slot.toNat = s.isOn.getLsbD slot.toNat

/-! ### Invariants every step keeps -/

/-- The ring invariant (R39), kept by every step from every state that has it. -/
def Obligations.RingInvariantKept : Prop :=
  ∀ s t : State, RingOk s → step s = .next t → RingOk t

/-- At most one momentary indicator is lit, and none of a slot without an indicator (R165, R35), kept by every step. -/
def Obligations.DriverInvariantKept : Prop :=
  ∀ s t : State, s.nSlots ≤ 16 → DriverOk s → step s = .next t → DriverOk t

/-- A momentary slot's `is_on` stays false (R33), through every step. -/
def Obligations.MomentaryBaselineKept : Prop :=
  ∀ s t : State, MomentaryOk s → step s = .next t → MomentaryOk t

/-- The sequencer's and the parser's registers stay legal and no slot vector gets a bit at or above N_SLOTS, through every step. -/
def Obligations.RegistersInvariantKept : Prop :=
  ∀ s t : State, RegistersOk s → step s = .next t → RegistersOk t

/-- The four invariants hold at reset. -/
def Obligations.InvariantsHoldAtReset : Prop :=
  RingOk State.reset ∧ DriverOk State.reset ∧ MomentaryOk State.reset ∧ RegistersOk State.reset

/-- From a state with the ring and the register invariants no run, whatever events wait, ever stops: the model's faults are unreachable
(R57) and the loop never exits (R300). -/
def Obligations.NoRunEverStops : Prop :=
  ∀ s : State, RingOk s → RegistersOk s → NeverStops s

/-! ### Rules over all operations -/

/-- Who writes what (R31): each element changes only through the operations that run its writer. -/
def Obligations.EveryElementHasItsWriters : Prop :=
  ∀ (i : Instr) (s t : State), exec i s = .next t →
    t.params = s.params ∧ t.input = s.input ∧
    (t.isOn = s.isOn ∨ (∃ k, i = .poll k) ∨ i = .step ∨ ∃ c, i = .reset c) ∧
    ((t.ind = s.ind ∧ t.trace = s.trace) ∨ (∃ k o, i = .set k o) ∨ (∃ k o, i = .onswitch k o) ∨ (∃ c v, i = .onmidi c v) ∨
      (∃ k, i = .poll k) ∨ takesAByte i ∨ i = .step ∨ ∃ c, i = .reset c) ∧
    ((t.rb = s.rb ∧ t.head = s.head) ∨ (∃ b, i = .push b) ∨ ∃ c, i = .reset c) ∧
    (t.tail = s.tail ∨ i = .pop ∨ i = .step ∨ ∃ c, i = .reset c) ∧
    (t.count = s.count ∨ (∃ b, i = .push b) ∨ i = .pop ∨ i = .step ∨ ∃ c, i = .reset c) ∧
    (t.chanBits = s.chanBits ∨ ∃ c, i = .reset c) ∧
    ((t.pstate = s.pstate ∧ t.pending = s.pending) ∨ takesAByte i ∨ i = .step ∨ ∃ c, i = .reset c) ∧
    ((t.phase = s.phase ∧ t.seqSlot = s.seqSlot) ∨ i = .step ∨ ∃ c, i = .reset c) ∧
    (t.waitCtr = s.waitCtr ∨ i = .step ∨ (∃ n, i = .tick n) ∨ ∃ c, i = .reset c) ∧
    (t.pins = s.pins ∨ ∃ v, i = .pins v)

/-- No step clears a recorded outcome (R301). -/
def Obligations.StickySetOnlyGrows : Prop :=
  ∀ s t : State, step s = .next t → ∀ e, e ∈ s.sticky → e ∈ t.sticky

/-- An operation that ends in a recorded outcome changes no other state (R301). -/
def Obligations.RaisedOutcomesChangeNothingElse : Prop :=
  ∀ (i : Instr) (s t : State) (e : ModelOutcome), exec i s = .next t → t.result = .raised e → t = recorded e s

/-- What lifts a hold is ticks (R268): while SEQ is held no operation but RESET, or enough ticks, ends the wait. -/
def Obligations.HoldIsLiftedByTicksAlone : Prop :=
  ∀ (i : Instr) (s t : State), held s = true → exec i s = .next t →
    (∀ n, i = .tick n → n.toNat < s.waitCtr) → (∀ c, i ≠ .reset c) → held t = true

/-- How a lit momentary indicator goes dark (R166): by the cleanup, which leaves another momentary indicator lit, by the test port
turning it off, or by a reset. -/
def Obligations.MomentaryGoesDarkOnlyByCleanup : Prop :=
  ∀ (i : Instr) (s t : State) (m : Nat), s.nSlots ≤ 16 → m < s.nSlots → isMomentary s.params m = true →
    exec i s = .next t → s.ind.getLsbD m = true → t.ind.getLsbD m = false →
    (∃ k, k < s.nSlots ∧ k ≠ m ∧ isMomentary s.params k = true ∧ hasIndicator s.params k = true ∧ t.ind.getLsbD k = true) ∨
    (∃ slot : SlotIdx, slot.toNat = m ∧ (i = .set slot false ∨ i = .onswitch slot false)) ∨ ∃ ch, i = .reset ch

/-- The MIDI path, from the pushed byte to the dispatch, never writes `is_on` (R245). -/
def Obligations.MidiPathNeverWritesIsOn : Prop :=
  ∀ (i : Instr) (s t : State), exec i s = .next t →
    (∃ b, i = .push b) ∨ i = .pop ∨ takesAByte i ∨ (∃ cc val, i = .onmidi cc val) ∨ (i = .step ∧ s.phase = .midi) →
    t.isOn = s.isOn
end

