-- ==== Sys2Proof/Laws/Memory.lean ====
section
/-! SUPPORT. The ring RAM: reads after writes, and the canonical form, which every operation on it keeps. -/

namespace Sys2Proof.Machine

@[simp] theorem memory_read_nil (a : Nat) : Memory.read [] a = none := rfl

theorem memory_read_cons (c : Host.Cell) (m : List Host.Cell) (a : Nat) :
    Memory.read (c :: m) a = if a = c.1 then some c.2 else Memory.read m a := by
  obtain ⟨k, v⟩ := c
  by_cases h : a = k
  · simp [Memory.read, List.lookup, h]
  · simp [Memory.read, List.lookup, h, beq_eq_false_iff_ne.mpr h]

@[simp] theorem memory_read_write_same (m : List Host.Cell) (a : Nat) (b : Byte) :
    Memory.read (Memory.write m a b) a = some b := by
  induction m with
  | nil => simp [Memory.write, memory_read_cons]
  | cons c m ih =>
    unfold Memory.write
    split
    · simp [memory_read_cons]
    · split
      · simp [memory_read_cons]
      · simp [memory_read_cons, *]

theorem memory_read_write_ne (m : List Host.Cell) {a a' : Nat} (b : Byte) (h : a' ≠ a) :
    Memory.read (Memory.write m a b) a' = Memory.read m a' := by
  induction m with
  | nil => simp [Memory.write, memory_read_cons, h]
  | cons c m ih =>
    unfold Memory.write
    split
    · simp [memory_read_cons, h]
    · split
      · rename_i h2
        simp only [memory_read_cons, h, ← h2, if_false]
      · simp only [memory_read_cons, ih]

theorem memory_mem_write {m : List Host.Cell} {a : Nat} {b : Byte} {c : Host.Cell}
    (h : c ∈ Memory.write m a b) : c = (a, b) ∨ c ∈ m := by
  induction m with
  | nil => simpa [Memory.write] using h
  | cons d m ih =>
    unfold Memory.write at h
    split at h
    · simpa using h
    · split at h
      · rcases List.mem_cons.mp h with h | h
        · exact .inl h
        · exact .inr (List.mem_cons_of_mem _ h)
      · rcases List.mem_cons.mp h with h | h
        · exact .inr (h ▸ List.mem_cons_self)
        · exact (ih h).imp id (List.mem_cons_of_mem _)

theorem memory_wf_cons {c : Host.Cell} {m : List Host.Cell} :
    Memory.wf (c :: m) = true ↔ (∀ d, m.head? = some d → c.1 < d.1) ∧ Memory.wf m = true := by
  cases m with
  | nil => simp [Memory.wf]
  | cons d m => simp [Memory.wf]

theorem memory_head_write (m : List Host.Cell) (a : Nat) (b : Byte) (d : Host.Cell)
    (h : (Memory.write m a b).head? = some d) : d.1 = a ∨ m.head? = some d := by
  cases m with
  | nil =>
    simp only [Memory.write, List.head?_cons, Option.some.injEq] at h
    exact .inl (h ▸ rfl)
  | cons c m =>
    unfold Memory.write at h
    split at h
    · simp only [List.head?_cons, Option.some.injEq] at h
      exact .inl (h ▸ rfl)
    · split at h
      · simp only [List.head?_cons, Option.some.injEq] at h
        exact .inl (h ▸ rfl)
      · exact .inr h

/-- A write keeps the canonical form. -/
theorem memory_wf_write (m : List Host.Cell) (a : Nat) (b : Byte) (h : Memory.wf m = true) :
    Memory.wf (Memory.write m a b) = true := by
  induction m with
  | nil => rfl
  | cons c m ih =>
    obtain ⟨h1, h2⟩ := memory_wf_cons.mp h
    unfold Memory.write
    split
    · rename_i hlt
      refine memory_wf_cons.mpr ⟨?_, h⟩
      intro d hd
      simp only [List.head?_cons, Option.some.injEq] at hd
      exact hd ▸ hlt
    · split
      · rename_i heq
        exact memory_wf_cons.mpr ⟨fun d hd => heq ▸ h1 d hd, h2⟩
      · refine memory_wf_cons.mpr ⟨fun d hd => ?_, ih h2⟩
        rcases memory_head_write m a b d hd with hd | hd
        · omega
        · exact h1 d hd

/-- Every operation on the ring RAM is a read or this write, and the write keeps the canonical form. -/
theorem rbWrite_wf (s : State) (i : Nat) (b : Byte) (h : Memory.wf s.rb = true) :
    Memory.wf (rbWrite s i b).rb = true :=
  memory_wf_write _ _ _ h

theorem reset_memory_wf : Memory.wf State.reset.rb = true := rfl

end Sys2Proof.Machine
end

