-- ==== Sys2Proof/Laws/State.lean ====
section
/-! SUPPORT. One lemma per field for each plain update of the state. -/

namespace Sys2Proof.Machine

variable (s : State)

/-! ### done -/

@[simp] theorem done_params : (done s).params = s.params := rfl
@[simp] theorem done_isOn : (done s).isOn = s.isOn := rfl
@[simp] theorem done_ind : (done s).ind = s.ind := rfl
@[simp] theorem done_rb : (done s).rb = s.rb := rfl
@[simp] theorem done_head : (done s).head = s.head := rfl
@[simp] theorem done_tail : (done s).tail = s.tail := rfl
@[simp] theorem done_count : (done s).count = s.count := rfl
@[simp] theorem done_chanBits : (done s).chanBits = s.chanBits := rfl
@[simp] theorem done_pstate : (done s).pstate = s.pstate := rfl
@[simp] theorem done_pending : (done s).pending = s.pending := rfl
@[simp] theorem done_phase : (done s).phase = s.phase := rfl
@[simp] theorem done_seqSlot : (done s).seqSlot = s.seqSlot := rfl
@[simp] theorem done_waitCtr : (done s).waitCtr = s.waitCtr := rfl
@[simp] theorem done_pins : (done s).pins = s.pins := rfl
@[simp] theorem done_trace : (done s).trace = s.trace := rfl
@[simp] theorem done_sticky : (done s).sticky = s.sticky := rfl
@[simp] theorem done_result : (done s).result = .done := rfl
@[simp] theorem done_input : (done s).input = s.input := rfl
@[simp] theorem done_nSlots : (done s).nSlots = s.nSlots := rfl

/-! ### reportHeld -/

@[simp] theorem reportHeld_params : (reportHeld s).params = s.params := rfl
@[simp] theorem reportHeld_isOn : (reportHeld s).isOn = s.isOn := rfl
@[simp] theorem reportHeld_ind : (reportHeld s).ind = s.ind := rfl
@[simp] theorem reportHeld_rb : (reportHeld s).rb = s.rb := rfl
@[simp] theorem reportHeld_head : (reportHeld s).head = s.head := rfl
@[simp] theorem reportHeld_tail : (reportHeld s).tail = s.tail := rfl
@[simp] theorem reportHeld_count : (reportHeld s).count = s.count := rfl
@[simp] theorem reportHeld_chanBits : (reportHeld s).chanBits = s.chanBits := rfl
@[simp] theorem reportHeld_pstate : (reportHeld s).pstate = s.pstate := rfl
@[simp] theorem reportHeld_pending : (reportHeld s).pending = s.pending := rfl
@[simp] theorem reportHeld_phase : (reportHeld s).phase = s.phase := rfl
@[simp] theorem reportHeld_seqSlot : (reportHeld s).seqSlot = s.seqSlot := rfl
@[simp] theorem reportHeld_waitCtr : (reportHeld s).waitCtr = s.waitCtr := rfl
@[simp] theorem reportHeld_pins : (reportHeld s).pins = s.pins := rfl
@[simp] theorem reportHeld_trace : (reportHeld s).trace = s.trace := rfl
@[simp] theorem reportHeld_sticky : (reportHeld s).sticky = s.sticky := rfl
@[simp] theorem reportHeld_result : (reportHeld s).result = .held := rfl
@[simp] theorem reportHeld_input : (reportHeld s).input = s.input := rfl
@[simp] theorem reportHeld_nSlots : (reportHeld s).nSlots = s.nSlots := rfl

/-! ### raise -/

@[simp] theorem raise_params (e : ModelOutcome) : (raise e s).params = s.params := rfl
@[simp] theorem raise_isOn (e : ModelOutcome) : (raise e s).isOn = s.isOn := rfl
@[simp] theorem raise_ind (e : ModelOutcome) : (raise e s).ind = s.ind := rfl
@[simp] theorem raise_rb (e : ModelOutcome) : (raise e s).rb = s.rb := rfl
@[simp] theorem raise_head (e : ModelOutcome) : (raise e s).head = s.head := rfl
@[simp] theorem raise_tail (e : ModelOutcome) : (raise e s).tail = s.tail := rfl
@[simp] theorem raise_count (e : ModelOutcome) : (raise e s).count = s.count := rfl
@[simp] theorem raise_chanBits (e : ModelOutcome) : (raise e s).chanBits = s.chanBits := rfl
@[simp] theorem raise_pstate (e : ModelOutcome) : (raise e s).pstate = s.pstate := rfl
@[simp] theorem raise_pending (e : ModelOutcome) : (raise e s).pending = s.pending := rfl
@[simp] theorem raise_phase (e : ModelOutcome) : (raise e s).phase = s.phase := rfl
@[simp] theorem raise_seqSlot (e : ModelOutcome) : (raise e s).seqSlot = s.seqSlot := rfl
@[simp] theorem raise_waitCtr (e : ModelOutcome) : (raise e s).waitCtr = s.waitCtr := rfl
@[simp] theorem raise_pins (e : ModelOutcome) : (raise e s).pins = s.pins := rfl
@[simp] theorem raise_trace (e : ModelOutcome) : (raise e s).trace = s.trace := rfl
@[simp] theorem raise_sticky (e : ModelOutcome) : (raise e s).sticky = stickyInsert s.sticky e := rfl
@[simp] theorem raise_result (e : ModelOutcome) : (raise e s).result = .raised e := rfl
@[simp] theorem raise_input (e : ModelOutcome) : (raise e s).input = s.input := rfl
@[simp] theorem raise_nSlots (e : ModelOutcome) : (raise e s).nSlots = s.nSlots := rfl

/-! ### emit -/

@[simp] theorem emit_params (k : Nat) (on : Bool) : (emit k on s).params = s.params := rfl
@[simp] theorem emit_isOn (k : Nat) (on : Bool) : (emit k on s).isOn = s.isOn := rfl
@[simp] theorem emit_ind (k : Nat) (on : Bool) : (emit k on s).ind = s.ind := rfl
@[simp] theorem emit_rb (k : Nat) (on : Bool) : (emit k on s).rb = s.rb := rfl
@[simp] theorem emit_head (k : Nat) (on : Bool) : (emit k on s).head = s.head := rfl
@[simp] theorem emit_tail (k : Nat) (on : Bool) : (emit k on s).tail = s.tail := rfl
@[simp] theorem emit_count (k : Nat) (on : Bool) : (emit k on s).count = s.count := rfl
@[simp] theorem emit_chanBits (k : Nat) (on : Bool) : (emit k on s).chanBits = s.chanBits := rfl
@[simp] theorem emit_pstate (k : Nat) (on : Bool) : (emit k on s).pstate = s.pstate := rfl
@[simp] theorem emit_pending (k : Nat) (on : Bool) : (emit k on s).pending = s.pending := rfl
@[simp] theorem emit_phase (k : Nat) (on : Bool) : (emit k on s).phase = s.phase := rfl
@[simp] theorem emit_seqSlot (k : Nat) (on : Bool) : (emit k on s).seqSlot = s.seqSlot := rfl
@[simp] theorem emit_waitCtr (k : Nat) (on : Bool) : (emit k on s).waitCtr = s.waitCtr := rfl
@[simp] theorem emit_pins (k : Nat) (on : Bool) : (emit k on s).pins = s.pins := rfl
@[simp] theorem emit_trace (k : Nat) (on : Bool) : (emit k on s).trace = s.trace ++ [⟨k, on⟩] := rfl
@[simp] theorem emit_sticky (k : Nat) (on : Bool) : (emit k on s).sticky = s.sticky := rfl
@[simp] theorem emit_result (k : Nat) (on : Bool) : (emit k on s).result = s.result := rfl
@[simp] theorem emit_input (k : Nat) (on : Bool) : (emit k on s).input = s.input := rfl
@[simp] theorem emit_nSlots (k : Nat) (on : Bool) : (emit k on s).nSlots = s.nSlots := rfl

/-! ### rbWrite -/

@[simp] theorem rbWrite_params (i : Nat) (b : Byte) : (rbWrite s i b).params = s.params := rfl
@[simp] theorem rbWrite_isOn (i : Nat) (b : Byte) : (rbWrite s i b).isOn = s.isOn := rfl
@[simp] theorem rbWrite_ind (i : Nat) (b : Byte) : (rbWrite s i b).ind = s.ind := rfl
@[simp] theorem rbWrite_rb (i : Nat) (b : Byte) : (rbWrite s i b).rb = Memory.write s.rb (i % s.params.rbCap) b := rfl
@[simp] theorem rbWrite_head (i : Nat) (b : Byte) : (rbWrite s i b).head = s.head := rfl
@[simp] theorem rbWrite_tail (i : Nat) (b : Byte) : (rbWrite s i b).tail = s.tail := rfl
@[simp] theorem rbWrite_count (i : Nat) (b : Byte) : (rbWrite s i b).count = s.count := rfl
@[simp] theorem rbWrite_chanBits (i : Nat) (b : Byte) : (rbWrite s i b).chanBits = s.chanBits := rfl
@[simp] theorem rbWrite_pstate (i : Nat) (b : Byte) : (rbWrite s i b).pstate = s.pstate := rfl
@[simp] theorem rbWrite_pending (i : Nat) (b : Byte) : (rbWrite s i b).pending = s.pending := rfl
@[simp] theorem rbWrite_phase (i : Nat) (b : Byte) : (rbWrite s i b).phase = s.phase := rfl
@[simp] theorem rbWrite_seqSlot (i : Nat) (b : Byte) : (rbWrite s i b).seqSlot = s.seqSlot := rfl
@[simp] theorem rbWrite_waitCtr (i : Nat) (b : Byte) : (rbWrite s i b).waitCtr = s.waitCtr := rfl
@[simp] theorem rbWrite_pins (i : Nat) (b : Byte) : (rbWrite s i b).pins = s.pins := rfl
@[simp] theorem rbWrite_trace (i : Nat) (b : Byte) : (rbWrite s i b).trace = s.trace := rfl
@[simp] theorem rbWrite_sticky (i : Nat) (b : Byte) : (rbWrite s i b).sticky = s.sticky := rfl
@[simp] theorem rbWrite_result (i : Nat) (b : Byte) : (rbWrite s i b).result = s.result := rfl
@[simp] theorem rbWrite_input (i : Nat) (b : Byte) : (rbWrite s i b).input = s.input := rfl
@[simp] theorem rbWrite_nSlots (i : Nat) (b : Byte) : (rbWrite s i b).nSlots = s.nSlots := rfl

/-! ### setIsOn -/

@[simp] theorem setIsOn_params (k : Nat) (b : Bool) : (setIsOn k b s).params = s.params := rfl
@[simp] theorem setIsOn_isOn (k : Nat) (b : Bool) : (setIsOn k b s).isOn = putBit s.isOn k b := rfl
@[simp] theorem setIsOn_ind (k : Nat) (b : Bool) : (setIsOn k b s).ind = s.ind := rfl
@[simp] theorem setIsOn_rb (k : Nat) (b : Bool) : (setIsOn k b s).rb = s.rb := rfl
@[simp] theorem setIsOn_head (k : Nat) (b : Bool) : (setIsOn k b s).head = s.head := rfl
@[simp] theorem setIsOn_tail (k : Nat) (b : Bool) : (setIsOn k b s).tail = s.tail := rfl
@[simp] theorem setIsOn_count (k : Nat) (b : Bool) : (setIsOn k b s).count = s.count := rfl
@[simp] theorem setIsOn_chanBits (k : Nat) (b : Bool) : (setIsOn k b s).chanBits = s.chanBits := rfl
@[simp] theorem setIsOn_pstate (k : Nat) (b : Bool) : (setIsOn k b s).pstate = s.pstate := rfl
@[simp] theorem setIsOn_pending (k : Nat) (b : Bool) : (setIsOn k b s).pending = s.pending := rfl
@[simp] theorem setIsOn_phase (k : Nat) (b : Bool) : (setIsOn k b s).phase = s.phase := rfl
@[simp] theorem setIsOn_seqSlot (k : Nat) (b : Bool) : (setIsOn k b s).seqSlot = s.seqSlot := rfl
@[simp] theorem setIsOn_waitCtr (k : Nat) (b : Bool) : (setIsOn k b s).waitCtr = s.waitCtr := rfl
@[simp] theorem setIsOn_pins (k : Nat) (b : Bool) : (setIsOn k b s).pins = s.pins := rfl
@[simp] theorem setIsOn_trace (k : Nat) (b : Bool) : (setIsOn k b s).trace = s.trace := rfl
@[simp] theorem setIsOn_sticky (k : Nat) (b : Bool) : (setIsOn k b s).sticky = s.sticky := rfl
@[simp] theorem setIsOn_result (k : Nat) (b : Bool) : (setIsOn k b s).result = s.result := rfl
@[simp] theorem setIsOn_input (k : Nat) (b : Bool) : (setIsOn k b s).input = s.input := rfl
@[simp] theorem setIsOn_nSlots (k : Nat) (b : Bool) : (setIsOn k b s).nSlots = s.nSlots := rfl

/-! ### enterWait -/

@[simp] theorem enterWait_params (ph : Phase) (n : Nat) : (enterWait ph n s).params = s.params := rfl
@[simp] theorem enterWait_isOn (ph : Phase) (n : Nat) : (enterWait ph n s).isOn = s.isOn := rfl
@[simp] theorem enterWait_ind (ph : Phase) (n : Nat) : (enterWait ph n s).ind = s.ind := rfl
@[simp] theorem enterWait_rb (ph : Phase) (n : Nat) : (enterWait ph n s).rb = s.rb := rfl
@[simp] theorem enterWait_head (ph : Phase) (n : Nat) : (enterWait ph n s).head = s.head := rfl
@[simp] theorem enterWait_tail (ph : Phase) (n : Nat) : (enterWait ph n s).tail = s.tail := rfl
@[simp] theorem enterWait_count (ph : Phase) (n : Nat) : (enterWait ph n s).count = s.count := rfl
@[simp] theorem enterWait_chanBits (ph : Phase) (n : Nat) : (enterWait ph n s).chanBits = s.chanBits := rfl
@[simp] theorem enterWait_pstate (ph : Phase) (n : Nat) : (enterWait ph n s).pstate = s.pstate := rfl
@[simp] theorem enterWait_pending (ph : Phase) (n : Nat) : (enterWait ph n s).pending = s.pending := rfl
@[simp] theorem enterWait_phase (ph : Phase) (n : Nat) : (enterWait ph n s).phase = ph := rfl
@[simp] theorem enterWait_seqSlot (ph : Phase) (n : Nat) : (enterWait ph n s).seqSlot = s.seqSlot := rfl
@[simp] theorem enterWait_waitCtr (ph : Phase) (n : Nat) : (enterWait ph n s).waitCtr = n := rfl
@[simp] theorem enterWait_pins (ph : Phase) (n : Nat) : (enterWait ph n s).pins = s.pins := rfl
@[simp] theorem enterWait_trace (ph : Phase) (n : Nat) : (enterWait ph n s).trace = s.trace := rfl
@[simp] theorem enterWait_sticky (ph : Phase) (n : Nat) : (enterWait ph n s).sticky = s.sticky := rfl
@[simp] theorem enterWait_result (ph : Phase) (n : Nat) : (enterWait ph n s).result = s.result := rfl
@[simp] theorem enterWait_input (ph : Phase) (n : Nat) : (enterWait ph n s).input = s.input := rfl
@[simp] theorem enterWait_nSlots (ph : Phase) (n : Nat) : (enterWait ph n s).nSlots = s.nSlots := rfl

/-! ### nextPass -/

@[simp] theorem nextPass_params : (nextPass s).params = s.params := rfl
@[simp] theorem nextPass_isOn : (nextPass s).isOn = s.isOn := rfl
@[simp] theorem nextPass_ind : (nextPass s).ind = s.ind := rfl
@[simp] theorem nextPass_rb : (nextPass s).rb = s.rb := rfl
@[simp] theorem nextPass_head : (nextPass s).head = s.head := rfl
@[simp] theorem nextPass_tail : (nextPass s).tail = s.tail := rfl
@[simp] theorem nextPass_count : (nextPass s).count = s.count := rfl
@[simp] theorem nextPass_chanBits : (nextPass s).chanBits = s.chanBits := rfl
@[simp] theorem nextPass_pstate : (nextPass s).pstate = s.pstate := rfl
@[simp] theorem nextPass_pending : (nextPass s).pending = s.pending := rfl
@[simp] theorem nextPass_phase : (nextPass s).phase = .sample := rfl
@[simp] theorem nextPass_seqSlot : (nextPass s).seqSlot = 0#4 := rfl
@[simp] theorem nextPass_waitCtr : (nextPass s).waitCtr = s.waitCtr := rfl
@[simp] theorem nextPass_pins : (nextPass s).pins = s.pins := rfl
@[simp] theorem nextPass_trace : (nextPass s).trace = s.trace := rfl
@[simp] theorem nextPass_sticky : (nextPass s).sticky = s.sticky := rfl
@[simp] theorem nextPass_result : (nextPass s).result = s.result := rfl
@[simp] theorem nextPass_input : (nextPass s).input = s.input := rfl
@[simp] theorem nextPass_nSlots : (nextPass s).nSlots = s.nSlots := rfl

/-! ### presentCode -/

@[simp] theorem presentCode_params (c : CodeWord) : (presentCode c s).params = s.params := rfl
@[simp] theorem presentCode_isOn (c : CodeWord) : (presentCode c s).isOn = s.isOn := rfl
@[simp] theorem presentCode_ind (c : CodeWord) : (presentCode c s).ind = s.ind := rfl
@[simp] theorem presentCode_rb (c : CodeWord) : (presentCode c s).rb = s.rb := rfl
@[simp] theorem presentCode_head (c : CodeWord) : (presentCode c s).head = s.head := rfl
@[simp] theorem presentCode_tail (c : CodeWord) : (presentCode c s).tail = s.tail := rfl
@[simp] theorem presentCode_count (c : CodeWord) : (presentCode c s).count = s.count := rfl
@[simp] theorem presentCode_chanBits (c : CodeWord) : (presentCode c s).chanBits = s.chanBits := rfl
@[simp] theorem presentCode_pstate (c : CodeWord) : (presentCode c s).pstate = s.pstate := rfl
@[simp] theorem presentCode_pending (c : CodeWord) : (presentCode c s).pending = s.pending := rfl
@[simp] theorem presentCode_phase (c : CodeWord) : (presentCode c s).phase = s.phase := rfl
@[simp] theorem presentCode_seqSlot (c : CodeWord) : (presentCode c s).seqSlot = s.seqSlot := rfl
@[simp] theorem presentCode_waitCtr (c : CodeWord) : (presentCode c s).waitCtr = s.waitCtr := rfl
@[simp] theorem presentCode_pins (c : CodeWord) : (presentCode c s).pins = s.pins := rfl
@[simp] theorem presentCode_trace (c : CodeWord) : (presentCode c s).trace = s.trace := rfl
@[simp] theorem presentCode_sticky (c : CodeWord) : (presentCode c s).sticky = s.sticky := rfl
@[simp] theorem presentCode_result (c : CodeWord) : (presentCode c s).result = s.result := rfl
@[simp] theorem presentCode_input (c : CodeWord) : (presentCode c s).input = .code c :: s.input := rfl
@[simp] theorem presentCode_nSlots (c : CodeWord) : (presentCode c s).nSlots = s.nSlots := rfl

end Sys2Proof.Machine
end

