-- ==== Sys2Proof/Laws/Ops.lean ====
section
/-! SUPPORT. What each shared operation does, said once as an equation over the whole state. -/

namespace Sys2Proof.Machine

/-! ### The parser states as literals -/

@[simp] theorem pstateS0_literal : pstateS0 = 0#2 := rfl
@[simp] theorem pstateS1_literal : pstateS1 = 1#2 := rfl
@[simp] theorem pstateS2_literal : pstateS2 = 2#2 := rfl
@[simp] theorem pstateIllegal_literal : pstateIllegal = 3#2 := rfl

/-! ### Slot vectors -/

@[simp] theorem getLsbD_slotBits (f : Nat → Bool) (k : Nat) :
    (slotBits f).getLsbD k = (decide (k < 16) && f k) := by
  by_cases h : k < 16 <;> simp [slotBits, BitVec.getLsbD_ofFnLE, h]

@[simp] theorem getElem_slotBits (f : Nat → Bool) (k : Nat) (h : k < 16) : (slotBits f)[k] = f k := by
  rw [← BitVec.getLsbD_eq_getElem, getLsbD_slotBits]
  simp [h]

theorem getLsbD_putBit (v : SlotBits) (k m : Nat) (b : Bool) :
    (putBit v k b).getLsbD m = (decide (m < 16) && if m = k then b else v.getLsbD m) := by
  simp [putBit]

/-- Two slot vectors with the same sixteen bits are the same. -/
theorem slotBits_ext {v w : SlotBits} (h : ∀ m, m < 16 → v.getLsbD m = w.getLsbD m) : v = w :=
  BitVec.eq_of_getLsbD_eq h

theorem putBit_putBit (v : SlotBits) (k : Nat) (b c : Bool) : putBit (putBit v k b) k c = putBit v k c := by
  apply slotBits_ext
  intro m hm
  by_cases h : m = k <;> simp [putBit, h, hm]

theorem getLsbD_of_ge (v : SlotBits) {k : Nat} (h : 16 ≤ k) : v.getLsbD k = false :=
  BitVec.getLsbD_of_ge v k h

/-- A slot vector below `2 ^ n` has no bit at or above `n`. -/
theorem getLsbD_of_toNat_lt {v : SlotBits} {n : Nat} (h : v.toNat < 2 ^ n) (m : Nat) (hm : n ≤ m) : v.getLsbD m = false :=
  Nat.testBit_lt_two_pow (Nat.lt_of_lt_of_le h (Nat.pow_le_pow_right (by decide) hm))

/-! ### The ring buffer -/

theorem rbCap_pos (p : Params) : 0 < p.rbCap := Nat.two_pow_pos _

theorem nextIndex_lt (p : Params) (x : Nat) : nextIndex p x < p.rbCap := Nat.mod_lt _ (rbCap_pos p)

@[simp] theorem nextIndex_mod (p : Params) (x : Nat) : nextIndex p x % p.rbCap = nextIndex p x :=
  Nat.mod_eq_of_lt (nextIndex_lt p x)

theorem ringPush_full (b : Byte) (s : State) (h : s.count = s.params.rbCap) : ringPush b s = s := by
  simp [ringPush, h]

theorem ringPush_room (b : Byte) (s : State) (h : s.count ≠ s.params.rbCap) :
    ringPush b s = { s with head := nextIndex s.params s.head, count := s.count + 1,
                            rb := Memory.write s.rb (nextIndex s.params s.head) b } := by
  simp [ringPush, h, rbWrite]

theorem ringPop_some {s t : State} {b : Byte} (h : ringPop s = some (b, t)) :
    rbRead s (s.tail + 1) = some b ∧
      t = { s with tail := nextIndex s.params s.tail, count := s.count - 1 } := by
  simp only [ringPop, Option.map_eq_some_iff, Prod.mk.injEq] at h
  obtain ⟨c, h1, rfl, rfl⟩ := h
  refine ⟨?_, rfl⟩
  simpa [rbRead, nextIndex] using h1

theorem ringPop_of_read {s : State} {b : Byte} (h : rbRead s (s.tail + 1) = some b) :
    ringPop s = some (b, { s with tail := nextIndex s.params s.tail, count := s.count - 1 }) := by
  have h1 : rbRead s (nextIndex s.params s.tail) = some b := by simpa [rbRead, nextIndex] using h
  simp [ringPop, h1]

theorem ringPop_none {s : State} : ringPop s = none ↔ rbRead s (s.tail + 1) = none := by
  simp [ringPop, rbRead, nextIndex]

/-! ### The Output Driver and the Dispatcher -/

/-- The indicator register after one call the Output Driver received. -/
def driven (p : Params) (ind : SlotBits) (c : SetCall) : SlotBits :=
  if hasIndicator p c.slot then driveIndicators p c.slot c.on ind else ind

/-- The calls `onMidi(cc, val)` makes, in order (R240). -/
def midiCalls (p : Params) (cc val : Data7) : List SetCall :=
  ((List.range p.nSlots).filter (fun i => ccNumber p i = cc)).map
    (fun i => ⟨i, isMomentary p i || decide (val = onValue p i)⟩)

theorem driverSet_eq (k : Nat) (on : Bool) (s : State) :
    driverSet k on s = { s with trace := s.trace ++ [⟨k, on⟩], ind := driven s.params s.ind ⟨k, on⟩ } := by
  by_cases h : hasIndicator s.params k <;> simp [driverSet, driven, emit, h]

theorem onMidi_eq (cc val : Data7) (s : State) :
    onMidi cc val s =
      { s with trace := s.trace ++ midiCalls s.params cc val,
               ind := (midiCalls s.params cc val).foldl (driven s.params) s.ind } := by
  have key : ∀ (l : List Nat) (t : State), t.params = s.params →
      l.foldl (fun t i => midiCommand s.params cc val i t) t =
        { t with
          trace := t.trace ++ (l.filter (fun i => ccNumber s.params i = cc)).map
            (fun i => ⟨i, isMomentary s.params i || decide (val = onValue s.params i)⟩),
          ind := ((l.filter (fun i => ccNumber s.params i = cc)).map
            (fun i => ⟨i, isMomentary s.params i || decide (val = onValue s.params i)⟩)).foldl
              (driven s.params) t.ind } := by
    intro l
    induction l with
    | nil => intro t _; simp
    | cons i l ih =>
      intro t ht
      by_cases h : ccNumber s.params i = cc
      · rw [List.foldl_cons, ih]
        · simp [midiCommand, h, driverSet_eq, ht]
        · simp [midiCommand, h, driverSet_eq, ht]
      · rw [List.foldl_cons, ih]
        · simp [midiCommand, h]
        · simpa [midiCommand, h] using ht
  exact key _ s rfl

/-- The indicator register after a call, bit by bit (R160-R163). -/
theorem getLsbD_driven (p : Params) (ind : SlotBits) (c : SetCall) (m : Nat) :
    (driven p ind c).getLsbD m =
      (decide (m < 16) &&
        if hasIndicator p c.slot = false then ind.getLsbD m
        else if m = c.slot then c.on
        else if c.on && isMomentary p c.slot && decide (m < p.nSlots) && isMomentary p m && hasIndicator p m then false
        else ind.getLsbD m) := by
  obtain ⟨k, on⟩ := c
  by_cases h16 : m < 16
  · by_cases hk : hasIndicator p k <;> by_cases hm : m = k <;> cases on <;> cases hmom : isMomentary p k <;>
      simp [driven, driveIndicators, lightMomentary, putBit, hk, hm, hmom, h16]
    all_goals exact fun _ => hm ▸ h16
  · simp [getLsbD_of_ge _ (Nat.le_of_not_lt h16), h16]

/-- Every indicator pin shows its bit of the register, and only a slot with an indicator has one (R167). -/
theorem indicatorPin_eq_some {s : State} {k : Nat} {b : Bool} :
    indicatorPin s k = some b ↔ k < s.nSlots ∧ hasIndicator s.params k = true ∧ s.ind.getLsbD k = b := by
  simp [indicatorPin, and_assoc]

theorem indicatorPin_eq_none {s : State} {k : Nat} :
    indicatorPin s k = none ↔ (k < s.nSlots → hasIndicator s.params k = false) := by
  simp [indicatorPin]

/-! ### The debounce engine -/

theorem momentaryConfirm_same (k : Nat) (snap : SlotBits) (s : State)
    (h : excl s.params snap k = s.isOn.getLsbD k) : momentaryConfirm k snap s = s := by
  simp [momentaryConfirm, h]

theorem momentaryConfirm_differs (k : Nat) (snap : SlotBits) (s : State)
    (h : excl s.params snap k ≠ s.isOn.getLsbD k) :
    momentaryConfirm k snap s =
      { s with isOn := putBit s.isOn k (!excl s.params snap k), trace := s.trace ++ [⟨k, true⟩],
               ind := driven s.params s.ind ⟨k, true⟩ } := by
  simp [momentaryConfirm, h, onSwitch, driverSet_eq, setIsOn, putBit_putBit]

theorem latchingFlip_eq (k : Nat) (s : State) :
    latchingFlip k s =
      { s with isOn := putBit s.isOn k (!s.isOn.getLsbD k), trace := s.trace ++ [⟨k, !s.isOn.getLsbD k⟩],
               ind := driven s.params s.ind ⟨k, !s.isOn.getLsbD k⟩ } := by
  simp [latchingFlip, onSwitch, driverSet_eq, setIsOn]

/-! ### The parser -/

/-- The parser's transition touches the parser registers, and the trace and the indicators through a dispatch only. -/
theorem parserByte_eq (b : Byte) (s : State) :
    ∃ ps pd tr ind, parserByte b s = { s with pstate := ps, pending := pd, trace := tr, ind := ind } ∧
      (s.pstate ≠ pstateIllegal → ps ≠ pstateIllegal) ∧
      ((tr = s.trace ∧ ind = s.ind) ∨
        (tr = s.trace ++ midiCalls s.params s.pending (low7 b) ∧
          ind = (midiCalls s.params s.pending (low7 b)).foldl (driven s.params) s.ind)) := by
  unfold parserByte
  split
  · split
    · exact ⟨pstateS1, s.pending, s.trace, s.ind, rfl, fun _ => by decide, .inl ⟨rfl, rfl⟩⟩
    · exact ⟨s.pstate, s.pending, s.trace, s.ind, rfl, id, .inl ⟨rfl, rfl⟩⟩
  · split
    · split
      · exact ⟨pstateS0, s.pending, s.trace, s.ind, rfl, fun _ => by decide, .inl ⟨rfl, rfl⟩⟩
      · exact ⟨pstateS2, low7 b, s.trace, s.ind, rfl, fun _ => by decide, .inl ⟨rfl, rfl⟩⟩
    · split
      · exact ⟨pstateS0, s.pending, s.trace, s.ind, rfl, fun _ => by decide, .inl ⟨rfl, rfl⟩⟩
      · exact ⟨pstateS0, s.pending, _, _, by simp [parseValue, onMidi_eq], fun _ => by decide, .inr ⟨rfl, rfl⟩⟩

/-! ### The sequencer -/

theorem advance_eq (s : State) :
    (s.seqSlot.toNat < s.nSlots - 1 ∧ advance s = { s with seqSlot := s.seqSlot + 1#4, phase := .sample }) ∨
      (¬ s.seqSlot.toNat < s.nSlots - 1 ∧ advance s = { s with phase := .midi }) := by
  by_cases h : s.seqSlot.toNat < s.nSlots - 1
  · exact .inl ⟨h, by simp [advance, h]⟩
  · exact .inr ⟨h, by simp [advance, h]⟩

theorem held_iff (s : State) :
    held s = true ↔ (s.phase = .debounce ∨ s.phase = .holdoff) ∧ 0 < s.waitCtr := by
  cases h : s.phase <;> simp [held, h, Phase.isWait]

/-- What a STEP can do, one case per arm (R261-R265, R268): it is held, or it acts in one of the four phases. -/
theorem execStep_next {s t : State} (h : execStep s = .next t) :
    (held s = true ∧ t = reportHeld s) ∨
    (s.phase = .sample ∧ s.seqSlot.toNat < s.nSlots ∧ t = done (sampleStep s)) ∨
    (s.phase = .debounce ∧ s.waitCtr = 0 ∧ s.seqSlot.toNat < s.nSlots ∧ t = done (confirmStep s)) ∨
    (s.phase = .holdoff ∧ s.waitCtr = 0 ∧ t = done (advance s)) ∨
    (s.phase = .midi ∧ s.count = 0 ∧ t = done (nextPass s)) ∨
    (∃ b u, s.phase = .midi ∧ s.count ≠ 0 ∧ ringPop s = some (b, u) ∧
      ((s.pstate = pstateIllegal ∧ t = raise (.refusedState b) s) ∨
        (s.pstate ≠ pstateIllegal ∧ t = done (nextPass (parserByte b u))))) := by
  unfold execStep at h
  split at h
  · rename_i hh
    exact .inl ⟨hh, by simpa using h.symm⟩
  · rename_i hh
    have hw : s.phase.isWait = true → s.waitCtr = 0 := by
      intro hp
      simp only [held, hp, Bool.true_and, decide_eq_true_eq] at hh
      omega
    split at h
    · rename_i hp
      unfold onSeqSlot at h
      split at h
      · exact .inr (.inl ⟨hp, ‹_›, by simpa using h.symm⟩)
      · cases h
    · rename_i hp
      unfold onSeqSlot at h
      split at h
      · exact .inr (.inr (.inl ⟨hp, hw (by simp [hp, Phase.isWait]), ‹_›, by simpa using h.symm⟩))
      · cases h
    · rename_i hp
      exact .inr (.inr (.inr (.inl ⟨hp, hw (by simp [hp, Phase.isWait]), by simpa using h.symm⟩)))
    · rename_i hp
      unfold midiStep at h
      split at h
      · exact .inr (.inr (.inr (.inr (.inl ⟨hp, ‹_›, by simpa using h.symm⟩))))
      · rename_i hc
        split at h
        · cases h
        · rename_i b u hpop
          refine .inr (.inr (.inr (.inr (.inr ⟨b, u, hp, hc, hpop, ?_⟩))))
          split at h
          · exact .inl ⟨‹_›, by simpa using h.symm⟩
          · exact .inr ⟨‹_›, by simpa using h.symm⟩

/-! ### Taking the next event -/

theorem fetch_code {s : State} {c : CodeWord} {rest : List Input} (h : s.input = .code c :: rest) :
    fetch s = (c, { s with input := rest }) := by
  simp [fetch, h]

theorem fetch_idle {s : State} (h : s.input = []) : fetch s = (.op (idleWord s), s) := by
  simp [fetch, h]

/-- Taking an event changes nothing but the queue. -/
theorem fetch_state (s : State) : ∃ rest, (fetch s).2 = { s with input := rest } := by
  unfold fetch
  split
  · exact ⟨s.input, rfl⟩
  · exact ⟨_, rfl⟩
  · exact ⟨_, rfl⟩

end Sys2Proof.Machine
end

