-- ==== Sys2Proof/Laws/Debounce.lean ====
section
/-! SUPPORT. What the sequencer's computations on one slot can do, said once: how a switch step changes the state. -/

namespace Sys2Proof.Machine

/-- What a confirm or a poll of slot `k` does to `is_on`, the trace and the indicators: nothing, the momentary confirm's command
(R136), or the latching flip (R140). -/
inductive SwitchEffect (k : Nat) (s : State) : SlotBits → List SetCall → SlotBits → Prop
  | unchanged : SwitchEffect k s s.isOn s.trace s.ind
  | momentary (hm : isMomentary s.params k = true) (hd : excl s.params s.pins k ≠ s.isOn.getLsbD k) :
      SwitchEffect k s (putBit s.isOn k (!excl s.params s.pins k)) (s.trace ++ [⟨k, true⟩])
        (driven s.params s.ind ⟨k, true⟩)
  | latching (hm : isMomentary s.params k = false) :
      SwitchEffect k s (putBit s.isOn k (!s.isOn.getLsbD k)) (s.trace ++ [⟨k, !s.isOn.getLsbD k⟩])
        (driven s.params s.ind ⟨k, !s.isOn.getLsbD k⟩)

theorem momentaryConfirm_effect {k : Nat} {s : State} (hm : isMomentary s.params k = true) :
    ∃ a b c, momentaryConfirm k s.pins s = { s with isOn := a, trace := b, ind := c } ∧ SwitchEffect k s a b c := by
  by_cases h : excl s.params s.pins k = s.isOn.getLsbD k
  · exact ⟨_, _, _, momentaryConfirm_same k _ s h, .unchanged⟩
  · exact ⟨_, _, _, momentaryConfirm_differs k _ s h, .momentary hm h⟩

/-- A whole poll (R142). -/
theorem pollSlot_effect (k : Nat) (s : State) :
    ∃ a b c, pollSlot k s = { s with isOn := a, trace := b, ind := c } ∧ SwitchEffect k s a b c := by
  unfold pollSlot
  split
  · split
    · exact momentaryConfirm_effect ‹_›
    · exact ⟨_, _, _, rfl, .unchanged⟩
  · rename_i hm
    split
    · unfold latchingConfirm
      split
      · exact ⟨_, _, _, rfl, .unchanged⟩
      · exact ⟨_, _, _, latchingFlip_eq k s, .latching (by simpa using hm)⟩
    · exact ⟨_, _, _, rfl, .unchanged⟩

/-- `advance()` moves the position only (R262). -/
theorem advance_effect (s : State) : ∃ q p, advance s = { s with seqSlot := q, phase := p } := by
  rcases advance_eq s with ⟨_, h⟩ | ⟨_, h⟩ <;> exact ⟨_, _, h⟩

/-- The sample step enters the window or advances (R135, R139). -/
theorem sampleStep_effect (s : State) :
    sampleStep s = { s with waitCtr := s.params.tDb, phase := .debounce } ∨ sampleStep s = advance s := by
  unfold sampleStep momentarySample latchingSample
  split <;> split <;> first | exact .inl rfl | exact .inr rfl

/-- The confirm step: a switch effect, then `advance()` or the hold-off (R136, R140). -/
theorem confirmStep_effect (s : State) :
    ∃ a b c, SwitchEffect s.seqSlot.toNat s a b c ∧
      (confirmStep s = advance { s with isOn := a, trace := b, ind := c } ∨
        confirmStep s = { s with isOn := a, trace := b, ind := c, waitCtr := s.params.tHo, phase := .holdoff }) := by
  unfold confirmStep
  dsimp only
  split
  · obtain ⟨a, b, c, h, he⟩ := momentaryConfirm_effect (s := s) ‹_›
    exact ⟨a, b, c, he, .inl (by rw [h])⟩
  · rename_i hm
    split
    · exact ⟨_, _, _, .unchanged, .inl rfl⟩
    · exact ⟨_, _, _, .latching (by simpa using hm), .inr (by rw [latchingFlip_eq]; rfl)⟩

/-- A byte handed to the parser as an operation: refused in no parser state, else one transition. -/
theorem consumeByte_next {b : Byte} {s t : State} (h : consumeByte b s = .next t) :
    (s.pstate = pstateIllegal ∧ t = raise (.refusedState b) s) ∨ (s.pstate ≠ pstateIllegal ∧ t = done (parserByte b s)) := by
  unfold consumeByte at h
  split at h
  · exact .inl ⟨‹_›, by simpa using h.symm⟩
  · exact .inr ⟨‹_›, by simpa using h.symm⟩

/-- The passage of ticks changes `wait_ctr` only, and never raises it (R266). -/
theorem passTicks_effect (n : Nat) (s : State) :
    ∃ w, passTicks n s = { s with waitCtr := w } ∧ w ≤ s.waitCtr := by
  unfold passTicks
  split
  · exact ⟨_, rfl, Nat.sub_le _ _⟩
  · exact ⟨_, rfl, Nat.le_refl _⟩

end Sys2Proof.Machine
end

