-- ==== Sys2Proof/Laws/PerInstr.lean ====
section
/-! SUPPORT. Per-instruction laws: the code word of every well-formed operation matches its row of the opcode table. -/

namespace Sys2Proof.Laws.TableMatch

/-- A row's mask and match. -/
inductive Row where
  | opw (mask value : OpWord)
  | byte (mask value : Byte)

/-- The mask and match spec/opcode_table.json gives the operation's row (for RESERVED: the op field). -/
def row : Instr → Row
  | .push _ => .opw 0xFFFF00#24 0x100000#24
  | .pop => .opw 0xFFFFFF#24 0x200000#24
  | .avail => .opw 0xFFFFFF#24 0x300000#24
  | .parse _ => .opw 0xFFFF00#24 0x400000#24
  | .poll _ => .opw 0xF0FFFF#24 0x500000#24
  | .set _ _ => .opw 0xF07FFF#24 0x600000#24
  | .onmidi _ _ => .opw 0xFF8080#24 0x700000#24
  | .onswitch _ _ => .opw 0xF07FFF#24 0x800000#24
  | .step => .opw 0xFFFFFF#24 0x900000#24
  | .tick _ => .opw 0xFF0000#24 0xA00000#24
  | .pins _ => .opw 0xFF0000#24 0xB00000#24
  | .reset _ => .opw 0xFFFFF0#24 0xC00000#24
  | .midiCcsMatch _ => .byte 0xF0#8 0xB0#8
  | .midiS0Ignore _ => .byte 0x00#8 0x00#8
  | .midiS1Data _ => .byte 0x80#8 0x00#8
  | .midiS1Status _ => .byte 0x80#8 0x80#8
  | .midiS2Data _ => .byte 0x80#8 0x00#8
  | .midiS2Status _ => .byte 0x80#8 0x80#8
  | .reserved op _ => .opw 0xF00000#24 (op.setWidth 24 <<< 20)

/-- Does the code word fit the row? -/
def fits : CodeWord → Row → Prop
  | .op w, .opw mask value => w &&& mask = value
  | .midi b, .byte mask value => b &&& mask = value
  | .op _, .byte _ _ => False
  | .midi _, .opw _ _ => False

/-- The operation's code word fits its row of the table. -/
def Statement (i : Instr) : Prop := fits (encode i) (row i)

theorem push (b : Byte) : Statement (.push b) := by
  apply BitVec.eq_of_getLsbD_eq
  intro k hk
  interval_cases k <;> simp [wordPush]

theorem pop : Statement .pop := rfl

theorem avail : Statement .avail := rfl

theorem parse (b : Byte) : Statement (.parse b) := by
  apply BitVec.eq_of_getLsbD_eq
  intro k hk
  interval_cases k <;> simp

theorem poll (slot : SlotIdx) : Statement (.poll slot) := by
  apply BitVec.eq_of_getLsbD_eq
  intro k hk
  interval_cases k <;> simp [wordPoll]

theorem set (slot : SlotIdx) (on : Bool) : Statement (.set slot on) := by
  apply BitVec.eq_of_getLsbD_eq
  intro k hk
  interval_cases k <;> simp [wordSet]

theorem onmidi (cc val : Data7) : Statement (.onmidi cc val) := by
  apply BitVec.eq_of_getLsbD_eq
  intro k hk
  interval_cases k <;> simp

theorem onswitch (slot : SlotIdx) (on : Bool) : Statement (.onswitch slot on) := by
  apply BitVec.eq_of_getLsbD_eq
  intro k hk
  interval_cases k <;> simp [wordOnswitch]

theorem step : Statement .step := rfl

theorem tick (n : BitVec 16) : Statement (.tick n) := by
  apply BitVec.eq_of_getLsbD_eq
  intro k hk
  interval_cases k <;> simp [wordTick]

theorem pins (v : BitVec 16) : Statement (.pins v) := by
  apply BitVec.eq_of_getLsbD_eq
  intro k hk
  interval_cases k <;> simp

theorem reset (ch : BitVec 4) : Statement (.reset ch) := by
  apply BitVec.eq_of_getLsbD_eq
  intro k hk
  interval_cases k <;> simp

theorem midiCcsMatch (ch : BitVec 4) : Statement (.midiCcsMatch ch) := by
  apply BitVec.eq_of_getLsbD_eq
  intro k hk
  interval_cases k <;> simp [ccStatus]

theorem midiS0Ignore (b : Byte) : Statement (.midiS0Ignore b) := by
  apply BitVec.eq_of_getLsbD_eq
  intro k hk
  interval_cases k <;> simp

theorem midiS1Data (d : Data7) : Statement (.midiS1Data d) := by
  apply BitVec.eq_of_getLsbD_eq
  intro k hk
  interval_cases k <;> simp [dataByte]

theorem midiS1Status (low : Data7) : Statement (.midiS1Status low) := by
  apply BitVec.eq_of_getLsbD_eq
  intro k hk
  interval_cases k <;> simp [statusByte]

theorem midiS2Data (d : Data7) : Statement (.midiS2Data d) := by
  apply BitVec.eq_of_getLsbD_eq
  intro k hk
  interval_cases k <;> simp [dataByte]

theorem midiS2Status (low : Data7) : Statement (.midiS2Status low) := by
  apply BitVec.eq_of_getLsbD_eq
  intro k hk
  interval_cases k <;> simp [statusByte]

theorem reserved (op : BitVec 4) (rest : BitVec 20) : Statement (.reserved op rest) := by
  apply BitVec.eq_of_getLsbD_eq
  intro k hk
  interval_cases k <;> simp [wordReserved]

end Sys2Proof.Laws.TableMatch
end

