-- ==== Sys2Proof/Laws/Step.lean ====
section
/-! SUPPORT. What one step can do, said once, and runs one step at a time. -/

namespace Sys2Proof.Machine

/-- A step that goes on ran an operation, or recorded a refused code word, with at most the queue of events changed before. -/
theorem step_next {s t : State} (h : step s = .next t) :
    ∃ rest, (∃ i, exec i { s with input := rest } = .next t) ∨ ∃ e, t = raise e { s with input := rest } := by
  obtain ⟨rest, hr⟩ := fetch_state s
  refine ⟨rest, ?_⟩
  simp only [step, hr] at h
  split at h
  · exact .inl ⟨_, h⟩
  · rename_i e _
    cases e <;> (simp only [reject, Host.Outcome.next.injEq] at h; exact .inr ⟨_, h.symm⟩)

/-- A property that every operation, every recorded outcome and every change of the queue keep is kept by every step. -/
theorem step_keeps {P : State → Prop} (hin : ∀ s rest, P s → P { s with input := rest })
    (hraise : ∀ s e, P s → P (raise e s)) (hexec : ∀ i s t, P s → exec i s = .next t → P t)
    {s t : State} (h : P s) (hs : step s = .next t) : P t := by
  obtain ⟨rest, ⟨i, hi⟩ | ⟨e, rfl⟩⟩ := step_next hs
  · exact hexec i _ t (hin s rest h) hi
  · exact hraise _ e (hin s rest h)

theorem run_zero (s : State) : Sys2Proof.core.run 0 s = .next s := rfl

theorem run_succ {s t : State} (h : step s = .next t) (k : Nat) :
    Sys2Proof.core.run (k + 1) s = Sys2Proof.core.run k t := by
  have h2 : Sys2Proof.core.step s = .next t := h
  simp [Host.Core.run, h2]

end Sys2Proof.Machine
end

