-- ==== Sys2Proof/Tests/Slice0.lean ====
section
/-! SUPPORT. Tests. Expected values are the spec's: V<n> is a vector of spec/95_test_vectors.md, R<n> a rule; each word is written
out from its encoding. After them, a state and operands that meet the hypotheses of each obligation that has any. -/

namespace Sys2Proof.Tests

open Sys2Proof Sys2Proof.Machine Sys2Proof.Spec

/-! ### Helpers -/

/-- The next state of one operation, if there is one. -/
def after (i : Instr) (s : State) : Option State :=
  match exec i s with
  | .next t => some t
  | .fault _ => none
  | .refused _ => none

/-- The next state of one step, if there is one. -/
def stepped (s : State) : Option State :=
  match step s with
  | .next t => some t
  | .fault _ => none
  | .refused _ => none

/-- The state after reset, at a position of the sequencer. -/
def at_ (ph : Phase) (slot : SlotIdx) (wait : Nat) (pins : SlotBits) : State :=
  { State.reset with phase := ph, seqSlot := slot, waitCtr := wait, pins := pins }

/-- The state after reset, in a parser state. -/
def inParser (ps : BitVec 2) (pending : Data7) : State := { State.reset with pstate := ps, pending := pending }

/-- The state after reset with these indicators lit. -/
def lit (ind : SlotBits) : State := { State.reset with ind := ind }

/-- The state after reset with these switch levels. -/
def levels (pins : SlotBits) : State := { State.reset with pins := pins }

/-- The state after reset on another configuration. -/
def configured (cfg : List CfgWord) : State := { State.reset with params := { referenceParams with cfg := cfg } }

/-- The state after reset with these events waiting. -/
def waiting (events : List Input) : State := { State.reset with input := events }

/-- V20 after four pushes: a full buffer whose head has wrapped. -/
def fullRing : State := { State.reset with rb := [(0, 4#8), (1, 1#8), (2, 2#8), (3, 3#8)], count := 4 }

/-- V20 after three pushes: room for one byte. -/
def ringOfThree : State := { State.reset with rb := [(1, 1#8), (2, 2#8), (3, 3#8)], head := 3, count := 3 }

/-- One byte waiting, in the MIDI phase. -/
def oneByte (b : Byte) : State :=
  { State.reset with rb := [(1, b)], head := 1, count := 1, phase := .midi, seqSlot := 3#4 }

/-- CFG_B of 95_test_vectors. -/
def cfgB : List CfgWord := [0x03007F50#32, 0x03007F50#32, 0x02004050#32, 0x00004050#32]

/-! ### Well-formedness: one ill-formed term for each check -/

/-- Bit 4 of the levels on a block of four slots (R112). -/
theorem test_wf_pins_level_above_slots : (Instr.pins 0x0010#16).wellFormed ⟨4, pstateS0, 0#4⟩ = false := by decide
theorem test_wf_match_other_channel : (Instr.midiCcsMatch 1#4).wellFormed ⟨4, pstateS0, 0#4⟩ = false := by decide
theorem test_wf_match_outside_s0 : (Instr.midiCcsMatch 0#4).wellFormed ⟨4, pstateS1, 0#4⟩ = false := by decide
theorem test_wf_ignore_own_channel : (Instr.midiS0Ignore 0xB0#8).wellFormed ⟨4, pstateS0, 0#4⟩ = false := by decide
theorem test_wf_ignore_outside_s0 : (Instr.midiS0Ignore 0x00#8).wellFormed ⟨4, pstateS2, 0#4⟩ = false := by decide
theorem test_wf_s1_data_outside_s1 : (Instr.midiS1Data 0#7).wellFormed ⟨4, pstateS0, 0#4⟩ = false := by decide
theorem test_wf_s1_status_outside_s1 : (Instr.midiS1Status 0#7).wellFormed ⟨4, pstateS2, 0#4⟩ = false := by decide
theorem test_wf_s2_data_outside_s2 : (Instr.midiS2Data 0#7).wellFormed ⟨4, pstateS1, 0#4⟩ = false := by decide
theorem test_wf_s2_status_outside_s2 : (Instr.midiS2Status 0#7).wellFormed ⟨4, pstateIllegal, 0#4⟩ = false := by decide
theorem test_wf_reserved_known_opcode : (Instr.reserved 0xC#4 0#20).wellFormed ⟨4, pstateS0, 0#4⟩ = false := by decide

/-! ### Decoding: every constructor from a word written out bit by bit, op | slot | on | the rest (R107-R110, V32) -/

theorem test_decode_push : decodeOp 4 0b0001_0000_00000000_10110000#24 = .ok (.push 0xB0#8) := by rfl
theorem test_decode_push_bit8 :
    decodeOp 4 0b0001_0000_00000001_10110000#24 = .error (.reservedBits 0x1001B0#24) := by rfl
theorem test_decode_pop : decodeOp 4 0b0010_0000_00000000_00000000#24 = .ok .pop := by rfl
theorem test_decode_avail : decodeOp 4 0b0011_0000_00000000_00000000#24 = .ok .avail := by rfl
theorem test_decode_parse : decodeOp 4 0b0100_0000_00000000_01100111#24 = .ok (.parse 0x67#8) := by rfl
theorem test_decode_poll : decodeOp 4 0b0101_0010_0000000000000000#24 = .ok (.poll 2#4) := by rfl
theorem test_decode_set : decodeOp 4 0b0110_0101_1_000000000000000#24 = .ok (.set 5#4 true) := by rfl
theorem test_decode_set_reserved_before_slot :
    decodeOp 4 0b0110_0101_1_000000000000001#24 = .error (.reservedBits 0x658001#24) := by rfl
theorem test_decode_onmidi : decodeOp 4 0b0111_0000_0_1100111_0_1111111#24 = .ok (.onmidi 103#7 127#7) := by rfl
theorem test_decode_onmidi_bit7 :
    decodeOp 4 0b0111_0000_0_0000000_1_0000000#24 = .error (.reservedBits 0x700080#24) := by rfl
theorem test_decode_onswitch : decodeOp 4 0b1000_0001_0_000000000000000#24 = .ok (.onswitch 1#4 false) := by rfl
theorem test_decode_step : decodeOp 4 0b1001_0000_00000000_00000000#24 = .ok .step := by rfl
theorem test_decode_tick : decodeOp 4 0b1010_0000_0000001010111100#24 = .ok (.tick 700#16) := by rfl
theorem test_decode_pins : decodeOp 4 0b1011_0000_0000000000001110#24 = .ok (.pins 0x000E#16) := by rfl
theorem test_decode_pins_bit4 :
    decodeOp 4 0b1011_0000_0000000000010000#24 = .error (.reservedBits 0xB00010#24) := by rfl
theorem test_decode_reset : decodeOp 4 0b1100_0000_0000_0000_0000_1111#24 = .ok (.reset 15#4) := by rfl
theorem test_decode_reserved : decodeOp 4 0b1111_0001_0010_0011_0100_0101#24 = .ok (.reserved 0xF#4 0x12345#20) := by rfl
/-- 0xBF on channel 16 (V7). -/
theorem test_decode_ccs_match : decodeMidi pstateS0 15#4 0b1011_1111#8 = .ok (.midiCcsMatch 15#4) := by rfl
theorem test_decode_s0_ignore : decodeMidi pstateS0 0#4 0b1011_0001#8 = .ok (.midiS0Ignore 0xB1#8) := by rfl
theorem test_decode_s1_data : decodeMidi pstateS1 0#4 0b0_1100111#8 = .ok (.midiS1Data 103#7) := by rfl
/-- 0xF8, a status byte like any other (V21). -/
theorem test_decode_s1_status : decodeMidi pstateS1 0#4 0b1_1111000#8 = .ok (.midiS1Status 0x78#7) := by rfl
theorem test_decode_s2_data : decodeMidi pstateS2 0#4 0b0_1111111#8 = .ok (.midiS2Data 127#7) := by rfl
theorem test_decode_s2_status : decodeMidi pstateS2 0#4 0b1_0110000#8 = .ok (.midiS2Status 0x30#7) := by rfl
theorem test_decode_no_parser_state : decodeMidi pstateIllegal 0#4 0x00#8 = .error (.noParserState 0x00#8) := by rfl
/-- `MSG 103, 127` on channel 1 (R116): the words of P1. -/
theorem test_msg_words : (pseudoMsg 0#4 103#7 127#7).map encode = [.op 0x1000B0#24, .op 0x100067#24, .op 0x10007F#24] := by rfl

/-! ### Ring buffer (V20) -/

theorem test_push_wraps_head : (after (.push 4#8) ringOfThree).map (fun t => (t.head, t.count, t.rb)) =
    some (0, 4, [(0, 4#8), (1, 1#8), (2, 2#8), (3, 3#8)]) := by decide
theorem test_push_full_drops : (after (.push 5#8) fullRing).map (fun t => (t.head, t.count, t.rb)) =
    some (0, 4, fullRing.rb) := by decide
theorem test_pop_oldest : (after .pop fullRing).map (fun t => (t.result, t.tail, t.count)) = some (.byte 1#8, 1, 3) := by decide
theorem test_pop_empty : (after .pop State.reset).map (fun t => (t.sticky, t.count)) =
    some ([.popEmpty 0x200000#24], 0) := by decide
theorem test_avail : (after .avail fullRing).map (·.result) = some (.count 4) := by decide

/-! ### Parser (V4, V21, V22) -/

/-- `B0 67 7F`, the last byte: `set(2, F)`. -/
theorem test_parse_value_dispatches : (after (.parse 0x7F#8) (inParser pstateS2 103#7)).map (fun t => (t.pstate, t.trace)) =
    some (pstateS0, [⟨2, false⟩]) := by decide
theorem test_parse_no_state : after (.parse 0x00#8) (inParser pstateIllegal 0#7) =
    some { inParser pstateIllegal 0#7 with sticky := [.refusedState 0x00#8], result := .raised (.refusedState 0x00#8) } := by
  decide
theorem test_ccs_match : (after (.midiCcsMatch 0#4) State.reset).map (·.pstate) = some pstateS1 := by decide
theorem test_s0_ignore : after (.midiS0Ignore 0xB1#8) State.reset = some State.reset := by decide
theorem test_s1_data : (after (.midiS1Data 10#7) (inParser pstateS1 0#7)).map (fun t => (t.pstate, t.pending)) =
    some (pstateS2, 10#7) := by decide
/-- 200 for a number: back to S0 (V4). -/
theorem test_s1_status : after (.midiS1Status 0x48#7) (inParser pstateS1 0#7) = some State.reset := by decide
/-- `BF 50 01`, the last byte: `set(0, T)`. -/
theorem test_s2_data : (after (.midiS2Data 1#7) (inParser pstateS2 80#7)).map (fun t => (t.trace, t.ind)) =
    some ([⟨0, true⟩], 0b0001#16) := by decide
theorem test_s2_status : after (.midiS2Status 0x30#7) (inParser pstateS2 80#7) = some (inParser pstateS0 80#7) := by decide

/-! ### Dispatcher and Output Driver (V20s, V20t, V23, V24) -/

theorem test_set_clears_other_momentary : (after (.set 0#4 true) (lit 0b0110#16)).map (fun t => (t.ind, t.trace)) =
    some (0b0101#16, [⟨0, true⟩]) := by decide
/-- No indicator: traced, no cleanup. -/
theorem test_set_without_indicator : (after (.set 3#4 true) (lit 0b0010#16)).map (fun t => (t.ind, t.trace)) =
    some (0b0010#16, [⟨3, true⟩]) := by decide
/-- The pins of slots 0 and 2 are lit, slot 3 has no indicator and slot 4 does not exist: no pin (R167). -/
theorem test_indicator_pins : (List.range 5).map (indicatorPin (lit 0b0101#16)) =
    [some true, some false, some true, none, none] := by decide
theorem test_onswitch : (after (.onswitch 1#4 true) (lit 0b0001#16)).map (·.ind) = some 0b0010#16 := by decide
theorem test_onmidi_latching_off : (after (.onmidi 103#7 127#7) (lit 0b0100#16)).map (fun t => (t.ind, t.trace)) =
    some (0b0000#16, [⟨2, false⟩]) := by decide
theorem test_onmidi_all_match : (after (.onmidi 80#7 64#7) (configured cfgB)).map (fun t => (t.ind, t.trace)) =
    some (0b0110#16, [⟨0, true⟩, ⟨1, true⟩, ⟨2, true⟩, ⟨3, true⟩]) := by decide +kernel

/-! ### Debounce engine and sequencer (V10, V12, V14, V16, V19a) -/

theorem test_excl_two_pressed : (List.range 4).map (excl referenceParams 0b1100#16) = [false, false, false, false] := by decide
theorem test_excl_latching_does_not_count :
    (List.range 4).map (excl referenceParams 0b1001#16) = [false, true, false, false] := by decide
theorem test_poll_latching : (after (.poll 2#4) (levels 0b1011#16)).map (fun t => (t.isOn, t.ind, t.seqSlot)) =
    some (0b0100#16, 0b0100#16, 0#4) := by decide
theorem test_poll_bad_slot : (after (.poll 5#4) State.reset).map (·.sticky) = some [.badSlot 0x550000#24 5#4] := by decide
/-- The confirm: `set(0, T)`, and `is_on[0]` is false afterwards. -/
theorem test_step_confirm : (after .step (at_ .debounce 0#4 0 0b1110#16)).map (fun t => (t.trace, t.ind, t.isOn, t.phase, t.seqSlot)) =
    some ([⟨0, true⟩], 0b0001#16, 0#16, .sample, 1#4) := by decide +kernel
theorem test_step_flip : (after .step (at_ .debounce 2#4 0 0b1011#16)).map (fun t => (t.isOn, t.trace, t.phase, t.waitCtr)) =
    some (0b0100#16, [⟨2, true⟩], .holdoff, 700) := by decide
theorem test_tick : (after (.tick 25#16) (at_ .debounce 0#4 40 0b1110#16)).map (·.waitCtr) = some 15 := by decide
theorem test_tick_stops_at_zero : (after (.tick 100#16) (at_ .debounce 0#4 15 0b1110#16)).map (·.waitCtr) = some 0 := by decide
theorem test_pins : (after (.pins 0x000B#16) State.reset).map (·.pins) = some 0b1011#16 := by decide

/-! ### Reset and reserved words (V29, V30, V32) -/

theorem test_reset_pressed_latching : (after (.reset 3#4) (levels 0b0011#16)).map (fun t => (t.isOn, t.ind, t.chanBits)) =
    some (0b1100#16, 0#16, 3#4) := by decide
theorem test_reset_bad_config :
    (after (.reset 0#4) (configured [0x03007F50#32, 0x03007F51#32, 0x027F0067#32, 0x00007FE8#32])).map (·.sticky) =
    some [.config 3] := by decide
theorem test_reserved : (after (.reserved 0xF#4 0x12345#20) State.reset).map (·.sticky) =
    some [.refusedEncoding 0xF12345#24] := by decide
theorem test_step_fetches : (stepped (State.reset.withFetchWord 24 0x705000)).map (fun t => (t.trace, t.ind, t.input)) =
    some ([⟨0, true⟩], 0b0001#16, []) := by decide

/-! ### Memory -/

theorem reset_memory_wf : Memory.wf State.reset.rb = true := by decide

/-! ### The invariants' witnesses -/

theorem fullRing_ok : RingOk fullRing := ⟨by decide, by decide, by decide, by decide, by decide, by decide⟩
theorem ringOfThree_ok : RingOk ringOfThree := ⟨by decide, by decide, by decide, by decide, by decide, by decide⟩
theorem reset_ringOk : RingOk State.reset := ⟨by decide, by decide, by decide, by decide, by decide, by decide⟩

/-- Any state whose registers are legal and whose vectors are below 16 has the register invariant on four slots. -/
theorem registersOk_of {s : State} (h : s.params = referenceParams) (hp : s.pstate ≠ pstateIllegal) (hs : s.seqSlot.toNat < 4)
    (hw : s.waitCtr ≤ 700) (ho : s.isOn.toNat < 16) (hi : s.ind.toNat < 16) (hl : s.pins.toNat < 16) : RegistersOk s := by
  have hn : s.nSlots = 4 := by simp [State.nSlots, h]; decide
  refine ⟨by rw [h]; decide, hp, by rw [hn]; exact hs, by rw [h]; exact hw, ?_, ?_, ?_⟩ <;>
    (rw [hn]; exact getLsbD_of_toNat_lt (n := 4) ‹_›)

theorem fullRing_registersOk : RegistersOk fullRing :=
  registersOk_of rfl (by decide) (by decide) (by decide) (by decide) (by decide) (by decide)
theorem lit_driverOk : DriverOk (lit 0b0110#16) := by
  refine ⟨fun m k hm hk => ?_, fun m hm => ?_⟩
  · change m < 4 at hm; change k < 4 at hk
    interval_cases m <;> interval_cases k <;> decide
  · change m < 4 at hm
    interval_cases m <;> decide
theorem reset_momentaryOk : MomentaryOk State.reset := by decide

/-! ### A state and operands for each obligation that has hypotheses, clause by clause -/

theorem witness_EncodedOperationsDecodeBack :
    (Instr.pins 0x000F#16).wellFormed ⟨4, pstateS0, 0#4⟩ = true ∧ (Instr.midiS2Status 127#7).wellFormed ⟨4, pstateS2, 0#4⟩ = true ∧
    (Instr.reserved 0xD#4 0#20).wellFormed ⟨4, pstateS0, 0#4⟩ = true := by decide
theorem witness_DecodedWordsEncodeBack :
    decodeCode ⟨4, pstateS0, 0#4⟩ (.op 0xB0000F#24) = .ok (.pins 0x000F#16) ∧
    decodeCode ⟨4, pstateS1, 0#4⟩ (.midi 0x80#8) = .ok (.midiS1Status 0#7) := ⟨rfl, rfl⟩
theorem witness_MidiByteDecodeTable :
    0xBF#8 = 0xB0#8 ||| (15#4).setWidth 8 ∧ 0xB0#8 ≠ 0xB0#8 ||| (15#4).setWidth 8 ∧
    (0x7F#8).getLsbD 7 = false ∧ (0x80#8).getLsbD 7 = true := by decide
theorem witness_ReservedOpcodesAreRefused :
    (waiting [.code (.op 0x0FFFFF#24)]).input = [.code (.op 0x0FFFFF#24)] ∧ 0x0FFFFF#24 >>> 20 = 0x0#24 ∧
    0xD00000#24 >>> 20 = 0xD#24 ∧ 0xE00000#24 >>> 20 = 0xE#24 ∧ 0xFFFFFF#24 >>> 20 = 0xF#24 := by decide
theorem witness_ReservedBitsAreRefused :
    (waiting [.code (.op 0xB00010#24)]).input = [.code (.op 0xB00010#24)] ∧ State.reset.nSlots ≤ 16 ∧
    0xB00010#24 &&& reservedBits State.reset.nSlots (0xB00010#24 >>> 20).toNat ≠ 0#24 ∧
    0xB10000#24 &&& reservedBits 16 (0xB10000#24 >>> 20).toNat ≠ 0#24 := by decide
theorem witness_StepRunsTheDecodedOperation :
    (waiting [.code (.op 0x200000#24)]).input = [.code (.op 0x200000#24)] ∧
    decodeCode ⟨4, pstateS0, 0#4⟩ (.op 0x200000#24) = .ok .pop := ⟨rfl, rfl⟩
theorem witness_IdleStepRunsTheLoop :
    State.reset.input = [] ∧ held State.reset = false ∧ held (at_ .debounce 0#4 1 0b1110#16) = true := by decide

/-- A full buffer in the MIDI phase, a byte arriving in the cycle of the drain, in either order. -/
def collision (o : CollisionOrder) : State :=
  { fullRing with phase := .midi, params := { referenceParams with collisionOrder := o }, input := [.sameCycle 9#8] }
theorem witness_SameCycleCountsPushAndPop (o : CollisionOrder) :
    RingOk (collision o) ∧ RegistersOk (collision o) ∧ (collision o).phase = .midi ∧
    (collision o).input = [.sameCycle 9#8] ∧ (collision o).params.collisionOrder = o := by
  refine ⟨⟨?_, ?_, ?_, ?_, ?_, ?_⟩, ⟨?_, ?_, ?_, ?_, ?_, ?_, ?_⟩, rfl, rfl, rfl⟩ <;> cases o <;>
    first | decide | exact fun m hm => getLsbD_of_toNat_lt (n := 4) (by decide) m hm
theorem witness_PushStoresOrDrops :
    fullRing.count = fullRing.params.rbCap ∧ ringOfThree.count ≠ ringOfThree.params.rbCap := by decide
theorem witness_PopReturnsTheOldestByte :
    State.reset.count = 0 ∧ liveCells fullRing = [some 1#8, some 2#8, some 3#8, some 4#8] := by decide
theorem witness_UnwrittenCellFaults :
    0 < ({ State.reset with count := 1, phase := .midi } : State).count ∧
    rbRead { State.reset with count := 1, phase := .midi } 1 = none := by decide
theorem witness_RingOperationsKeepTheOrder :
    (RingOk ringOfThree ∧ ringOfThree.count ≠ ringOfThree.params.rbCap ∧ 0 < ringOfThree.count) ∧
    (RingOk fullRing ∧ fullRing.count = fullRing.params.rbCap) :=
  ⟨⟨ringOfThree_ok, by decide, by decide⟩, fullRing_ok, by decide⟩
theorem witness_PopsReturnAcceptedPushesInOrder : RingOk fullRing := fullRing_ok
theorem witness_ReceiveInterruptTouchesOnlyTheRing :
    fullRing.count = fullRing.params.rbCap ∧ ringOfThree.count ≠ ringOfThree.params.rbCap ∧
    (ringOfThree.head + 1) % ringOfThree.params.rbCap = 0 ∧ 3 ≠ (ringOfThree.head + 1) % ringOfThree.params.rbCap ∧
    1 ≠ (ringOfThree.head + 1) % ringOfThree.params.rbCap := by decide
theorem witness_IndicatorPinsShowTheRegister :
    ((2#4).toNat < State.reset.nSlots ∧ hasIndicator State.reset.params (2#4).toNat = true) ∧
    hasIndicator State.reset.params 3 = false ∧ State.reset.nSlots ≤ 4 := by decide
theorem witness_ParserTransitions :
    (State.reset.pstate = 0b00#2 ∧ 0xB0#8 = 0xB0#8 ||| State.reset.chanBits.setWidth 8 ∧
      0xB1#8 ≠ 0xB0#8 ||| State.reset.chanBits.setWidth 8) ∧
    (inParser pstateS1 0#7).pstate = 0b01#2 ∧ (inParser pstateS2 0#7).pstate = 0b10#2 ∧
    (0x7F#8).getLsbD 7 = false ∧ (0x80#8).getLsbD 7 = true := by decide
theorem witness_ParserRefusesTheIllegalState :
    ({ oneByte 7#8 with pstate := 0b11#2 } : State).pstate = 0b11#2 ∧ (oneByte 7#8).phase = .midi ∧
    liveCells { oneByte 7#8 with pstate := 0b11#2 } = [some 7#8] := by decide
theorem witness_ByteClassesTakeTheirTransitions :
    State.reset.pstate = 0b00#2 ∧ 0#4 = State.reset.chanBits ∧ 0x00#8 ≠ 0xB0#8 ||| State.reset.chanBits.setWidth 8 ∧
    (inParser pstateS1 0#7).pstate = 0b01#2 ∧ (inParser pstateS2 0#7).pstate = 0b10#2 := by decide
theorem witness_ByteClassActsAsParseOfItsByte : encode (.midiS1Data 127#7) = .midi 0x7F#8 := by rfl
theorem witness_ParserResynchronises :
    State.reset.pstate = 0b00#2 ∧ (inParser pstateS2 0#7).pstate = 0b10#2 ∧ (inParser pstateS1 0#7).pstate = 0b01#2 ∧
    (0x7F#8).getLsbD 7 = false ∧ (0x80#8).getLsbD 7 = true := by decide

/-- Sixteen momentary slots on one CC number. -/
def allMomentary : State := configured (List.replicate 16 0x03007F50#32)
theorem witness_HighestMomentaryMatchStaysLit :
    (allMomentary.nSlots ≤ 16 ∧ 15 < allMomentary.nSlots ∧ isMomentary allMomentary.params 15 = true ∧
      hasIndicator allMomentary.params 15 = true ∧ ccNumber allMomentary.params 15 = 80#7) ∧
    ∀ m, 15 < m → m < allMomentary.nSlots → isMomentary allMomentary.params m = true →
      hasIndicator allMomentary.params m = true → ccNumber allMomentary.params m ≠ 80#7 :=
  ⟨by decide, fun m h1 h2 => absurd h2 (by show ¬ m < 16; omega)⟩
theorem witness_SetDrivesTheIndicators : (3#4).toNat < State.reset.nSlots ∧ State.reset.nSlots ≤ (4#4).toNat := by decide
theorem witness_OnswitchCommandsTheSlot : (0#4).toNat < State.reset.nSlots ∧ State.reset.nSlots ≤ (15#4).toNat := by decide
theorem witness_SlotOutOfRangeRaisesBadSlot : State.reset.nSlots ≤ (4#4).toNat := by decide
theorem witness_ExclusivityOnASnapshot :
    (0 ≠ 1 ∧ MomentaryPressed referenceParams 0b1100#16 0 ∧ MomentaryPressed referenceParams 0b1100#16 1) ∧
    MomentaryPressed referenceParams 0b1001#16 1 ∧ ∀ j, MomentaryPressed referenceParams 0b1001#16 j → j = 1 := by
  refine ⟨⟨by decide, ⟨by decide, by decide, by decide⟩, by decide, by decide, by decide⟩, ⟨by decide, by decide, by decide⟩, ?_⟩
  rintro j ⟨h, hm, hp⟩
  change j < 4 at h
  interval_cases j <;> revert hm hp <;> decide
theorem witness_PollRunsOneWholePoll :
    ((0#4).toNat < State.reset.nSlots ∧ isMomentary referenceParams (0#4).toNat = true ∧
      excl referenceParams 0b1110#16 (0#4).toNat ≠ State.reset.isOn.getLsbD (0#4).toNat ∧
      excl referenceParams 0b1111#16 (0#4).toNat = State.reset.isOn.getLsbD (0#4).toNat) ∧
    ((3#4).toNat < State.reset.nSlots ∧ isMomentary referenceParams (3#4).toNat = false ∧
      (0b0111#16).getLsbD (3#4).toNat = false ∧ (0b1111#16).getLsbD (3#4).toNat = true) ∧
    State.reset.nSlots ≤ (4#4).toNat := by decide
theorem witness_StepSamplesASlot :
    (at_ .sample 3#4 0 0b0111#16).phase = .sample ∧ (at_ .sample 3#4 0 0b0111#16).seqSlot.toNat < State.reset.nSlots ∧
    isMomentary referenceParams 3 = false ∧ (0b0111#16).getLsbD 3 = false ∧ (0b1111#16).getLsbD 3 = true ∧
    isMomentary referenceParams 0 = true ∧ excl referenceParams 0b1110#16 0 ≠ State.reset.isOn.getLsbD 0 ∧
    excl referenceParams 0b1100#16 0 = State.reset.isOn.getLsbD 0 := by decide
theorem witness_StepConfirmsMomentary :
    (at_ .debounce 1#4 0 0b1101#16).phase = .debounce ∧ (at_ .debounce 1#4 0 0b1101#16).waitCtr = 0 ∧
    (at_ .debounce 1#4 0 0b1101#16).seqSlot.toNat < State.reset.nSlots ∧ isMomentary referenceParams 1 = true ∧
    excl referenceParams 0b1101#16 1 ≠ State.reset.isOn.getLsbD 1 ∧
    excl referenceParams 0b1111#16 1 = State.reset.isOn.getLsbD 1 := by decide
theorem witness_StepConfirmsLatching :
    (at_ .debounce 3#4 0 0b1111#16).phase = .debounce ∧ (at_ .debounce 3#4 0 0b1111#16).waitCtr = 0 ∧
    (at_ .debounce 3#4 0 0b1111#16).seqSlot.toNat < State.reset.nSlots ∧ isMomentary referenceParams 3 = false ∧
    (({ referenceParams with latchRequireConfirm := true } : Params).latchRequireConfirm = true ∧ (0b1111#16).getLsbD 3 = true) ∧
    ¬ (referenceParams.latchRequireConfirm = true ∧ (0b1111#16).getLsbD 3 = true) := by decide
theorem witness_PollAgreesWithTheSequencer :
    (levels 0b1110#16).phase = .sample ∧ (levels 0b1110#16).seqSlot.toNat < State.reset.nSlots ∧
    (levels 0b1110#16).params.tDb < 2 ^ 16 ∧ (after .step (levels 0b1110#16)).map (·.phase) = some .debounce ∧
    (after .step State.reset).map (·.phase) = some .sample := by decide
theorem witness_StepWaitsThenLeavesTheHoldoff :
    ((at_ .holdoff 3#4 0 0#16).phase = .holdoff ∧ (at_ .holdoff 3#4 0 0#16).waitCtr = 0) ∧
    ((at_ .debounce 0#4 1 0#16).phase = .debounce ∧ 0 < (at_ .debounce 0#4 1 0#16).waitCtr) ∧
    ((at_ .holdoff 0#4 700 0#16).phase = .holdoff ∧ 0 < (at_ .holdoff 0#4 700 0#16).waitCtr) := by decide
theorem witness_StepDrainsOneByte :
    ((at_ .midi 3#4 0 0#16).phase = .midi ∧ (at_ .midi 3#4 0 0#16).count = 0) ∧
    (oneByte 0xB0#8).phase = .midi ∧ liveCells (oneByte 0xB0#8) = [some 0xB0#8] ∧ (oneByte 0xB0#8).pstate ≠ 0b11#2 := by decide
theorem witness_StepAtNoSlotFaults :
    State.reset.nSlots ≤ (at_ .sample 4#4 0 0#16).seqSlot.toNat ∧ (at_ .sample 4#4 0 0#16).phase = .sample ∧
    State.reset.nSlots ≤ (at_ .debounce 15#4 0 0#16).seqSlot.toNat ∧ (at_ .debounce 15#4 0 0#16).phase = .debounce ∧
    (at_ .debounce 15#4 0 0#16).waitCtr = 0 := by decide
theorem witness_PinsSetsTheLevels : State.reset.nSlots ≤ 16 ∧ (0x000F#16).toNat < 2 ^ State.reset.nSlots := by decide
theorem witness_ResetLeavesTheResetState : ∀ k, k < State.reset.nSlots → cfgReservedSet State.reset.params k = false := by decide

/-- V30's configuration: slot 3 has reserved bit 7 set. -/
def badConfig : Params := { referenceParams with cfg := [0x03007F50#32, 0x03007F51#32, 0x027F0067#32, 0x00007FE8#32] }
theorem witness_ResetRefusesABadConfiguration :
    3 < badConfig.nSlots ∧ cfgReservedSet badConfig 3 = true ∧ ∀ j, j < 3 → cfgReservedSet badConfig j = false := by decide
theorem witness_IdlePassReturnsToSlotZero :
    (1 ≤ State.reset.nSlots ∧ State.reset.nSlots ≤ 16 ∧ State.reset.phase = .sample ∧ State.reset.seqSlot = 0#4 ∧
      State.reset.count = 0 ∧ MomentaryOk State.reset ∧ ∀ m, m < State.reset.nSlots → State.reset.pins.getLsbD m = true) ∧
    (waiting ((pseudoPassIdle 4).map (fun i => .code (encode i)))).input = List.replicate 5 (.code (.op 0x900000#24)) := by
  decide
theorem witness_RingInvariantKept : RingOk fullRing ∧ (stepped fullRing).isSome = true := ⟨fullRing_ok, by decide⟩
theorem witness_DriverInvariantKept :
    (lit 0b0110#16).nSlots ≤ 16 ∧ DriverOk (lit 0b0110#16) ∧ (stepped (lit 0b0110#16)).isSome = true :=
  ⟨by decide, lit_driverOk, by decide⟩
theorem witness_MomentaryBaselineKept : MomentaryOk State.reset ∧ (stepped State.reset).isSome = true := by decide
theorem witness_RegistersInvariantKept : RegistersOk fullRing ∧ (stepped fullRing).isSome = true :=
  ⟨fullRing_registersOk, by decide⟩
theorem witness_NoRunEverStops : RingOk fullRing ∧ RegistersOk fullRing := ⟨fullRing_ok, fullRing_registersOk⟩
theorem witness_EveryElementHasItsWriters : (after .pop fullRing).isSome = true := by decide
theorem witness_StickySetOnlyGrows :
    ModelOutcome.config 3 ∈ ({ State.reset with sticky := [.config 3] } : State).sticky ∧
    (stepped { State.reset with sticky := [.config 3] }).isSome = true := by decide
theorem witness_RaisedOutcomesChangeNothingElse :
    (after .pop State.reset).map (·.result) = some (.raised (.popEmpty 0x200000#24)) := by decide
theorem witness_HoldIsLiftedByTicksAlone :
    held (at_ .debounce 0#4 2 0b1110#16) = true ∧ (after (.tick 1#16) (at_ .debounce 0#4 2 0b1110#16)).isSome = true ∧
    (1#16).toNat < (at_ .debounce 0#4 2 0b1110#16).waitCtr ∧
    (∀ c, Instr.tick 1#16 ≠ .reset c) := ⟨by decide, by decide, by decide, fun _ h => by cases h⟩
theorem witness_LatchingDesyncTakesTwoPresses :
    ((2#4).toNat < State.reset.nSlots ∧ isMomentary referenceParams (2#4).toNat = false ∧
      hasIndicator referenceParams (2#4).toNat = true ∧ (levels 0b1011#16).pins.getLsbD (2#4).toNat = false) ∧
    (lit 0b0100#16).ind.getLsbD (2#4).toNat ≠ (lit 0b0100#16).isOn.getLsbD (2#4).toNat ∧
    State.reset.ind.getLsbD 2 ≠ ({ State.reset with isOn := 0b0100#16 } : State).isOn.getLsbD 2 := by decide
theorem witness_MomentaryGoesDarkOnlyByCleanup :
    ((lit 0b0010#16).nSlots ≤ 16 ∧ 1 < (lit 0b0010#16).nSlots ∧ isMomentary referenceParams 1 = true ∧
      (lit 0b0010#16).ind.getLsbD 1 = true) ∧
    (after (.set 0#4 true) (lit 0b0010#16)).map (fun t => t.ind.getLsbD 1) = some false ∧
    (after (.set 1#4 false) (lit 0b0010#16)).map (fun t => t.ind.getLsbD 1) = some false ∧
    (after (.reset 0#4) (lit 0b0010#16)).map (fun t => t.ind.getLsbD 1) = some false := by decide
theorem witness_MidiPathNeverWritesIsOn :
    (after (.push 1#8) State.reset).isSome = true ∧ (after .pop fullRing).isSome = true ∧
    (after (.parse 0x7F#8) (inParser pstateS2 103#7)).isSome = true ∧ (after (.onmidi 103#7 0#7) State.reset).isSome = true ∧
    ((after .step (oneByte 0xB0#8)).isSome = true ∧ (oneByte 0xB0#8).phase = .midi) := by decide

end Sys2Proof.Tests
end

section
/-! PROOFS. Taking the next event: a step is its fetch, its decode and its execution, and nothing more (R18, R60, R302). -/

namespace Sys2Proof.Proofs

open Sys2Proof Sys2Proof.Machine Sys2Proof.Spec

/-- The step's equation when the fetched word spells an operation, whatever event it came from. -/
theorem step_eq_exec_of_fetch {s t : State} {c : CodeWord} {i : Instr} (hfetch : fetch s = (c, t))
    (hdecode : decodeCode t.decodeCtx c = .ok i) : step s = exec i t := by
  simp only [step, hfetch, hdecode]

/-- Decoding does not read the queue, so the context before and after the event is taken is the same. -/
@[simp] theorem decodeCtx_withInput (s : State) (rest : List Input) :
    State.decodeCtx { s with input := rest } = s.decodeCtx := rfl

/-- Settles O9: the code word at the head of the queue is the one fetched, and taking it leaves the decoding context as it was. -/
theorem stepRunsTheDecodedOperation : Obligations.StepRunsTheDecodedOperation := by
  intro s c rest i hinput hdecode
  have hctx : decodeCode (State.decodeCtx { s with input := rest }) c = .ok i := by
    rw [decodeCtx_withInput]
    exact hdecode
  exact step_eq_exec_of_fetch (fetch_code hinput) hctx

end Sys2Proof.Proofs
end

section
/-! PROOFS. What an operation that goes on can do to the state, said once: one case per writer of R31's table. -/

namespace Sys2Proof.Proofs

open Sys2Proof Sys2Proof.Machine Sys2Proof.Spec

/-! ### The notions the effects are written in -/

/-- The Output Driver received some calls, each for a slot that exists; `tr` and `ind` are the trace and the indicators
after them (R56, R160). -/
def AfterCalls (s : State) (tr : List SetCall) (ind : SlotBits) : Prop :=
  ∃ calls : List SetCall, (∀ c ∈ calls, c.slot < s.nSlots) ∧
    tr = s.trace ++ calls ∧ ind = calls.foldl (driven s.params) s.ind

/-- Where the sequencer can stand after a step: where it was, at slot 0, or at the next slot (R262, R265). -/
def NextSlot (s : State) (q : SlotIdx) : Prop :=
  q = s.seqSlot ∨ q = 0#4 ∨ (s.seqSlot.toNat < s.nSlots - 1 ∧ q = s.seqSlot + 1#4)

/-- What an operation that goes on does: one case per writer of R31's table, with what bounds the values written. -/
inductive OpEffect (s : State) : Instr → State → Prop
  /-- Only an answer is given: AVAIL, and STEP while SEQ is held. -/
  | answered (i : Instr) (r : OpResult) : OpEffect s i { s with result := r }
  /-- A model outcome is recorded (R301). -/
  | raised (i : Instr) (e : ModelOutcome) : OpEffect s i (raise e s)
  | pushed (b : Byte) : OpEffect s (.push b) (done (ringPush b s))
  | popped (b : Byte) (hcount : s.count ≠ 0) :
      OpEffect s .pop
        { s with tail := nextIndex s.params s.tail, count := s.count - 1, result := .byte b }
  /-- A byte was handed to the parser (R210). -/
  | parsed {i : Instr} {ps : BitVec 2} {pd : Data7} {tr : List SetCall} {ind : SlotBits}
      (hbyte : takesAByte i) (hlegal : ps ≠ pstateIllegal) (hcalls : AfterCalls s tr ind) :
      OpEffect s i { s with pstate := ps, pending := pd, trace := tr, ind := ind, result := .done }
  | polled {slot : SlotIdx} {a : SlotBits} {tr : List SetCall} {ind : SlotBits} (hslot : slot.toNat < s.nSlots)
      (hswitch : SwitchEffect slot.toNat s a tr ind) :
      OpEffect s (.poll slot) { s with isOn := a, trace := tr, ind := ind, result := .done }
  /-- SET, ONSWITCH and ONMIDI reach the Output Driver alone. -/
  | commanded {i : Instr} {tr : List SetCall} {ind : SlotBits}
      (hop : (∃ k o, i = .set k o) ∨ (∃ k o, i = .onswitch k o) ∨ ∃ c v, i = .onmidi c v)
      (hcalls : AfterCalls s tr ind) :
      OpEffect s i { s with trace := tr, ind := ind, result := .done }
  /-- A STEP that samples a slot, leaves a hold-off or finds no byte: the position moves. -/
  | moved {q : SlotIdx} {ph : Phase} {w : Nat} (hnext : NextSlot s q) (hwait : w = s.waitCtr ∨ w = s.params.tDb) :
      OpEffect s .step { s with seqSlot := q, phase := ph, waitCtr := w, result := .done }
  /-- A STEP that confirms the slot `seq_slot` (R263). -/
  | confirmed {a : SlotBits} {tr : List SetCall} {ind : SlotBits} {q : SlotIdx} {ph : Phase} {w : Nat}
      (hslot : s.seqSlot.toNat < s.nSlots) (hswitch : SwitchEffect s.seqSlot.toNat s a tr ind)
      (hnext : NextSlot s q) (hwait : w = s.waitCtr ∨ w = s.params.tHo) :
      OpEffect s .step
        { s with isOn := a, trace := tr, ind := ind, seqSlot := q, phase := ph, waitCtr := w, result := .done }
  /-- A STEP that pops and parses one byte (R265). -/
  | drained {ps : BitVec 2} {pd : Data7} {tr : List SetCall} {ind : SlotBits} (hcount : s.count ≠ 0)
      (hlegal : ps ≠ pstateIllegal) (hcalls : AfterCalls s tr ind) :
      OpEffect s .step
        { s with tail := nextIndex s.params s.tail, count := s.count - 1, pstate := ps, pending := pd, trace := tr,
                 ind := ind, seqSlot := 0#4, phase := .sample, result := .done }
  | ticked (n : BitVec 16) {w : Nat} (hwait : w ≤ s.waitCtr) :
      OpEffect s (.tick n) { s with waitCtr := w, result := .done }
  | levelled (v : BitVec 16) :
      OpEffect s (.pins v)
        { s with pins := slotBits (fun k => decide (k < s.nSlots) && v.getLsbD k), result := .done }
  | wasReset (ch : BitVec 4) : OpEffect s (.reset ch) (done (resetTo ch s))

/-- A push touches the ring alone (R308). -/
theorem ringPush_frame (b : Byte) (s : State) :
    ∃ cells hd n, ringPush b s = { s with rb := cells, head := hd, count := n } := by
  by_cases hfull : s.count = s.params.rbCap
  · exact ⟨_, _, _, ringPush_full b s hfull⟩
  · exact ⟨_, _, _, ringPush_room b s hfull⟩

/-! ### The calls an operation makes go to slots that exist -/

theorem afterCalls_none (s : State) : AfterCalls s s.trace s.ind := ⟨[], by simp, by simp, rfl⟩

theorem afterCalls_one {s : State} {k : Nat} (on : Bool) (hk : k < s.nSlots) :
    AfterCalls s (s.trace ++ [⟨k, on⟩]) (driven s.params s.ind ⟨k, on⟩) :=
  ⟨[⟨k, on⟩], by simpa using hk, rfl, rfl⟩

/-- The scan of the configuration table calls existing slots only (R240). -/
theorem afterCalls_midi (s : State) (cc val : Data7) :
    AfterCalls s (s.trace ++ midiCalls s.params cc val)
      ((midiCalls s.params cc val).foldl (driven s.params) s.ind) := by
  refine ⟨midiCalls s.params cc val, fun c hc => ?_, rfl, rfl⟩
  obtain ⟨i, hi, rfl⟩ := List.mem_map.mp hc
  exact List.mem_range.mp (List.mem_filter.mp hi).1

theorem switchEffect_afterCalls {k : Nat} {s : State} {a : SlotBits} {tr : List SetCall} {ind : SlotBits}
    (hk : k < s.nSlots) (h : SwitchEffect k s a tr ind) : AfterCalls s tr ind := by
  cases h with
  | unchanged => exact afterCalls_none s
  | momentary => exact afterCalls_one true hk
  | latching => exact afterCalls_one _ hk

/-- The parser's transition in a legal state: a legal state again, and the calls of a dispatch or none. -/
theorem parserByte_effect (b : Byte) {s : State} (hp : s.pstate ≠ pstateIllegal) :
    ∃ ps pd tr ind, parserByte b s = { s with pstate := ps, pending := pd, trace := tr, ind := ind } ∧
      ps ≠ pstateIllegal ∧ AfterCalls s tr ind := by
  obtain ⟨ps, pd, tr, ind, heq, hlegal, ⟨rfl, rfl⟩ | ⟨rfl, rfl⟩⟩ := parserByte_eq b s
  · exact ⟨ps, pd, _, _, heq, hlegal hp, afterCalls_none s⟩
  · exact ⟨ps, pd, _, _, heq, hlegal hp, afterCalls_midi s _ _⟩

theorem advance_nextSlot (s : State) :
    ∃ q ph, advance s = { s with seqSlot := q, phase := ph } ∧ NextSlot s q := by
  rcases advance_eq s with ⟨hlt, h⟩ | ⟨_, h⟩
  · exact ⟨_, _, h, .inr (.inr ⟨hlt, rfl⟩)⟩
  · exact ⟨_, _, h, .inl rfl⟩

/-! ### Each operation has one of the effects -/

section
variable {s t : State}

theorem execPop_effect (h : execPop s = .next t) : OpEffect s .pop t := by
  unfold execPop at h
  split at h
  · cases h
    exact .raised _ _
  · rename_i hcount
    split at h
    · cases h
    · rename_i b u hpop
      obtain ⟨_, rfl⟩ := ringPop_some hpop
      cases h
      exact .popped b hcount

theorem consumeByte_effect {i : Instr} {b : Byte} (hbyte : takesAByte i) (h : consumeByte b s = .next t) :
    OpEffect s i t := by
  rcases consumeByte_next h with ⟨_, rfl⟩ | ⟨hp, rfl⟩
  · exact .raised _ _
  · obtain ⟨ps, pd, tr, ind, heq, hlegal, hcalls⟩ := parserByte_effect b hp
    rw [heq]
    exact .parsed hbyte hlegal hcalls

theorem execPoll_effect {slot : SlotIdx} (h : execPoll slot s = .next t) : OpEffect s (.poll slot) t := by
  unfold execPoll at h
  split at h
  · rename_i hslot
    obtain ⟨a, tr, ind, heq, hswitch⟩ := pollSlot_effect slot.toNat s
    cases h
    rw [heq]
    exact .polled hslot hswitch
  · cases h
    exact .raised _ _

/-- The guard that SET and ONSWITCH share: the slot's call, or F_BAD_SLOT (R113, R160, R243). -/
theorem driverSet_effect {i : Instr} {slot : SlotIdx} {on : Bool} {e : ModelOutcome}
    (hop : (∃ k o, i = .set k o) ∨ (∃ k o, i = .onswitch k o) ∨ ∃ c v, i = .onmidi c v)
    (h : (if slot.toNat < s.nSlots then .next (done (driverSet slot.toNat on s)) else .next (raise e s) : Answer) = .next t) :
    OpEffect s i t := by
  split at h
  · rename_i hslot
    cases h
    rw [driverSet_eq]
    exact .commanded hop (afterCalls_one on hslot)
  · cases h
    exact .raised _ _

theorem execOnmidi_effect {cc val : Data7} (h : execOnmidi cc val s = .next t) : OpEffect s (.onmidi cc val) t := by
  cases h
  rw [onMidi_eq]
  exact .commanded (.inr (.inr ⟨cc, val, rfl⟩)) (afterCalls_midi s cc val)

theorem advance_opEffect (s : State) : OpEffect s .step (done (advance s)) := by
  obtain ⟨q, ph, heq, hnext⟩ := advance_nextSlot s
  rw [heq]
  exact .moved hnext (.inl rfl)

theorem sampleStep_opEffect (s : State) : OpEffect s .step (done (sampleStep s)) := by
  rcases sampleStep_effect s with heq | heq <;> rw [heq]
  · exact .moved (.inl rfl) (.inr rfl)
  · exact advance_opEffect s

theorem confirmStep_opEffect (hslot : s.seqSlot.toNat < s.nSlots) : OpEffect s .step (done (confirmStep s)) := by
  obtain ⟨a, tr, ind, hswitch, heq | heq⟩ := confirmStep_effect s <;> rw [heq]
  · obtain ⟨q, ph, hadv, hnext⟩ := advance_nextSlot { s with isOn := a, trace := tr, ind := ind }
    rw [hadv]
    exact .confirmed hslot hswitch hnext (.inl rfl)
  · exact .confirmed hslot hswitch (.inl rfl) (.inr rfl)

theorem drain_opEffect {b : Byte} {u : State} (hcount : s.count ≠ 0) (hpop : ringPop s = some (b, u))
    (hp : s.pstate ≠ pstateIllegal) : OpEffect s .step (done (nextPass (parserByte b u))) := by
  obtain ⟨_, rfl⟩ := ringPop_some hpop
  obtain ⟨ps, pd, tr, ind, heq, hlegal, hcalls⟩ :=
    parserByte_effect b (s := { s with tail := nextIndex s.params s.tail, count := s.count - 1 }) hp
  rw [heq]
  exact .drained hcount hlegal hcalls

theorem execStep_effect (h : execStep s = .next t) : OpEffect s .step t := by
  rcases execStep_next h with ⟨_, rfl⟩ | ⟨_, _, rfl⟩ | ⟨_, _, hslot, rfl⟩ | ⟨_, _, rfl⟩ | ⟨_, _, rfl⟩ |
    ⟨b, u, _, hcount, hpop, ⟨_, rfl⟩ | ⟨hp, rfl⟩⟩
  · exact .answered _ .held
  · exact sampleStep_opEffect s
  · exact confirmStep_opEffect hslot
  · exact advance_opEffect s
  · exact .moved (.inr (.inl rfl)) (.inl rfl)
  · exact .raised _ _
  · exact drain_opEffect hcount hpop hp

theorem execTick_effect {n : BitVec 16} (h : execTick n s = .next t) : OpEffect s (.tick n) t := by
  obtain ⟨w, heq, hwait⟩ := passTicks_effect n.toNat s
  cases h
  rw [heq]
  exact .ticked n hwait

theorem execReset_effect {ch : BitVec 4} (h : execReset ch s = .next t) : OpEffect s (.reset ch) t := by
  unfold execReset at h
  split at h <;> cases h
  · exact .raised _ _
  · exact .wasReset ch

/-- Every operation that goes on has one of the effects. -/
theorem exec_effect {i : Instr} (h : exec i s = .next t) : OpEffect s i t := by
  cases i with
  | push b => cases h; exact .pushed b
  | pop => exact execPop_effect h
  | avail => cases h; exact .answered _ (.count s.count)
  | parse b => exact consumeByte_effect (.inl ⟨b, rfl⟩) h
  | poll slot => exact execPoll_effect h
  | set slot on => exact driverSet_effect (.inl ⟨slot, on, rfl⟩) h
  | onmidi cc val => exact execOnmidi_effect h
  | onswitch slot on => exact driverSet_effect (.inr (.inl ⟨slot, on, rfl⟩)) h
  | step => exact execStep_effect h
  | tick n => exact execTick_effect h
  | pins v => cases h; exact .levelled v
  | reset ch => exact execReset_effect h
  | midiCcsMatch ch => exact consumeByte_effect (.inr ⟨_, rfl⟩) h
  | midiS0Ignore b => exact consumeByte_effect (.inr ⟨_, rfl⟩) h
  | midiS1Data d => exact consumeByte_effect (.inr ⟨_, rfl⟩) h
  | midiS1Status low => exact consumeByte_effect (.inr ⟨_, rfl⟩) h
  | midiS2Data d => exact consumeByte_effect (.inr ⟨_, rfl⟩) h
  | midiS2Status low => exact consumeByte_effect (.inr ⟨_, rfl⟩) h
  | reserved op rest => cases h; exact .raised _ _

end

end Sys2Proof.Proofs
end

section
/-! PROOFS. The invariants every step keeps: the ring (R39, R57), the momentary baseline (R33) and the registers (R31, R44, R50,
R51). -/

namespace Sys2Proof.Proofs

open Sys2Proof Sys2Proof.Machine Sys2Proof.Spec

section
variable {s t : State}

/-! ### The ring invariant -/

/-- The ring invariant speaks of the ring's elements alone. -/
theorem ringOk_of_sameRing (h : RingOk s) (hparams : t.params = s.params) (hrb : t.rb = s.rb) (hhead : t.head = s.head)
    (htail : t.tail = s.tail) (hcount : t.count = s.count) : RingOk t := by
  obtain ⟨hle, heq, hlt, hwf, hcells, hlive⟩ := h
  constructor <;> simpa only [rbRead, hparams, hrb, hhead, htail, hcount]

/-- The cell a push writes is the one after the live bytes (R39, R181). -/
theorem nextIndex_head (h : RingOk s) : nextIndex s.params s.head = (s.tail + 1 + s.count) % s.params.rbCap := by
  rw [nextIndex, h.head_eq, Nat.mod_add_mod, Nat.add_right_comm]

theorem ringOk_push (b : Byte) (h : RingOk s) : RingOk (ringPush b s) := by
  by_cases hfull : s.count = s.params.rbCap
  · rwa [ringPush_full b s hfull]
  rw [ringPush_room b s hfull]
  refine ⟨?_, ?_, h.tail_lt, memory_wf_write _ _ _ h.mem_wf, fun c hc => ?_, fun j hj => ?_⟩
  · have := h.count_le
    show s.count + 1 ≤ s.params.rbCap
    omega
  · show nextIndex s.params s.head = (s.tail + (s.count + 1)) % s.params.rbCap
    rw [nextIndex_head h, Nat.add_right_comm, Nat.add_assoc]
  · rcases memory_mem_write hc with rfl | hc
    · exact nextIndex_lt _ _
    · exact h.cells_lt c hc
  · show Memory.read (Memory.write s.rb _ b) ((s.tail + 1 + j) % s.params.rbCap) ≠ none
    by_cases haddr : (s.tail + 1 + j) % s.params.rbCap = nextIndex s.params s.head
    · simp [haddr]
    · have hne : j ≠ s.count := fun hj => haddr (by rw [hj, nextIndex_head h])
      rw [memory_read_write_ne _ _ haddr]
      exact h.live j (by have : j < s.count + 1 := hj; omega)

theorem ringOk_pop (h : RingOk s) (hcount : s.count ≠ 0) :
    RingOk { s with tail := nextIndex s.params s.tail, count := s.count - 1 } := by
  refine ⟨(Nat.sub_le _ _).trans h.count_le, ?_, nextIndex_lt _ _, h.mem_wf, h.cells_lt, fun j hj => ?_⟩
  · show s.head = ((s.tail + 1) % s.params.rbCap + (s.count - 1)) % s.params.rbCap
    rw [h.head_eq, Nat.mod_add_mod, Nat.add_assoc, Nat.add_sub_cancel' (Nat.one_le_iff_ne_zero.mpr hcount)]
  · have hlive := h.live (j + 1) (by have : j < s.count - 1 := hj; omega)
    show Memory.read s.rb (((s.tail + 1) % s.params.rbCap + 1 + j) % s.params.rbCap) ≠ none
    rwa [Nat.add_assoc, Nat.mod_add_mod, Nat.add_comm 1 j]

theorem ringOk_reset (ch : BitVec 4) (s : State) : RingOk (resetTo ch s) :=
  ⟨Nat.zero_le _, (Nat.zero_mod _).symm, rbCap_pos _, rfl, by simp [resetTo], by simp [resetTo]⟩

theorem opEffect_ringOk {i : Instr} (h : RingOk s) (he : OpEffect s i t) : RingOk t := by
  cases he with
  | pushed b => exact ringOk_of_sameRing (ringOk_push b h) rfl rfl rfl rfl rfl
  | popped b hcount => exact ringOk_of_sameRing (ringOk_pop h hcount) rfl rfl rfl rfl rfl
  | drained hcount => exact ringOk_of_sameRing (ringOk_pop h hcount) rfl rfl rfl rfl rfl
  | wasReset ch => exact ringOk_of_sameRing (ringOk_reset ch s) rfl rfl rfl rfl rfl
  | answered | raised | parsed | polled | commanded | moved | confirmed | ticked | levelled =>
    exact ringOk_of_sameRing h rfl rfl rfl rfl rfl

/-! ### The momentary baseline -/

theorem momentaryOk_of_sameIsOn (h : MomentaryOk s) (hparams : t.params = s.params) (hisOn : t.isOn = s.isOn) :
    MomentaryOk t := by
  simpa only [MomentaryOk, State.nSlots, hparams, hisOn] using h

/-- A confirm or a poll leaves every momentary slot's `is_on` false: on a momentary slot the baseline ends at the inverse of a
reading that differed from false (R136, R138), and a flip is of a latching slot. -/
theorem switchEffect_momentaryOk {k : Nat} {a : SlotBits} {tr : List SetCall} {ind : SlotBits} (h : MomentaryOk s)
    (hk : k < s.nSlots) (hswitch : SwitchEffect k s a tr ind) :
    MomentaryOk { s with isOn := a } := by
  intro m hm hmom
  cases hswitch with
  | unchanged => exact h m hm hmom
  | momentary hkmom hd =>
    have hpressed : excl s.params s.pins k = true := by simpa [h k hk hkmom] using hd
    have hm0 : s.isOn.getLsbD m = false := h m hm hmom
    simp [getLsbD_putBit, hpressed, hm0]
  | latching hkmom =>
    have hne : m ≠ k := fun hmk => by
      subst hmk
      exact absurd hmom (by simp [hkmom])
    have hm0 : s.isOn.getLsbD m = false := h m hm hmom
    simp [getLsbD_putBit, hne, hm0]

theorem momentaryOk_reset (ch : BitVec 4) (s : State) : MomentaryOk (resetTo ch s) := by
  intro m _ hmom
  have hmom' : isMomentary s.params m = true := hmom
  simp [resetTo, resetIsOn, hmom']

theorem opEffect_momentaryOk {i : Instr} (h : MomentaryOk s) (he : OpEffect s i t) : MomentaryOk t := by
  cases he with
  | polled hslot hswitch => exact momentaryOk_of_sameIsOn (switchEffect_momentaryOk h hslot hswitch) rfl rfl
  | confirmed hslot hswitch => exact momentaryOk_of_sameIsOn (switchEffect_momentaryOk h hslot hswitch) rfl rfl
  | wasReset ch => exact momentaryOk_of_sameIsOn (momentaryOk_reset ch s) rfl rfl
  | pushed b =>
    obtain ⟨cells, hd, n, heq⟩ := ringPush_frame b s
    rw [heq]
    exact momentaryOk_of_sameIsOn h rfl rfl
  | answered | raised | popped | parsed | commanded | moved | drained | ticked | levelled =>
    exact momentaryOk_of_sameIsOn h rfl rfl

/-! ### The registers and the slot vectors -/

theorem getLsbD_putBit_above {n k m : Nat} (v : SlotBits) (b : Bool) (hk : k < n) (hm : n ≤ m)
    (hv : v.getLsbD m = false) : (putBit v k b).getLsbD m = false := by
  have hne : m ≠ k := by omega
  simp [getLsbD_putBit, hne, hv]

/-- A call for a slot that exists lights no indicator at or above N_SLOTS (R161). -/
theorem getLsbD_driven_above {p : Params} {ind : SlotBits} {c : SetCall} {m : Nat} (hc : c.slot < p.nSlots)
    (hm : p.nSlots ≤ m) (hind : ind.getLsbD m = false) : (driven p ind c).getLsbD m = false := by
  have hne : m ≠ c.slot := by omega
  simp [getLsbD_driven, hne, hind]

theorem afterCalls_above {tr : List SetCall} {ind : SlotBits} (hcalls : AfterCalls s tr ind) {m : Nat} (hm : s.nSlots ≤ m)
    (hind : s.ind.getLsbD m = false) : ind.getLsbD m = false := by
  obtain ⟨calls, hslots, -, rfl⟩ := hcalls
  have hfold : ∀ (l : List SetCall) (v : SlotBits), (∀ c ∈ l, c.slot < s.nSlots) → v.getLsbD m = false →
      (l.foldl (driven s.params) v).getLsbD m = false := by
    intro l
    induction l with
    | nil => exact fun _ _ hv => hv
    | cons c l ih =>
      intro v hl hv
      exact ih _ (fun d hd => hl d (List.mem_cons_of_mem _ hd))
        (getLsbD_driven_above (hl c List.mem_cons_self) hm hv)
  exact hfold calls s.ind hslots hind

theorem switchEffect_isOn_above {k : Nat} {a : SlotBits} {tr : List SetCall} {ind : SlotBits} (hk : k < s.nSlots)
    (hswitch : SwitchEffect k s a tr ind) {m : Nat} (hm : s.nSlots ≤ m) (hisOn : s.isOn.getLsbD m = false) :
    a.getLsbD m = false := by
  cases hswitch with
  | unchanged => exact hisOn
  | momentary | latching => exact getLsbD_putBit_above _ _ hk hm hisOn

/-- The sequencer stays at a slot that exists: the next slot is taken below the last only, and of the sixteen slot numbers none
wraps (R262). -/
theorem nextSlot_lt (h : RegistersOk s) {q : SlotIdx} (hnext : NextSlot s q) : q.toNat < s.nSlots := by
  have hpos : 1 ≤ s.nSlots := h.legal.1
  have hle : s.nSlots ≤ 16 := h.legal.2.1
  rcases hnext with rfl | rfl | ⟨hlt, rfl⟩
  · exact h.slot_lt
  · exact hpos
  · rw [BitVec.toNat_add, show (1#4).toNat = 1 from rfl]
    omega

theorem opEffect_registersOk {i : Instr} (h : RegistersOk s) (he : OpEffect s i t) : RegistersOk t := by
  cases he with
  | answered | raised | popped => exact { h with }
  | pushed b =>
    obtain ⟨cells, hd, n, heq⟩ := ringPush_frame b s
    rw [heq]
    exact { h with }
  | parsed _ hlegal hcalls =>
    exact { h with
      pstate_legal := hlegal
      slots_ind := fun m hm => afterCalls_above hcalls hm (h.slots_ind m hm) }
  | polled hslot hswitch =>
    exact { h with
      slots_isOn := fun m hm => switchEffect_isOn_above hslot hswitch hm (h.slots_isOn m hm)
      slots_ind := fun m hm => afterCalls_above (switchEffect_afterCalls hslot hswitch) hm (h.slots_ind m hm) }
  | commanded _ hcalls =>
    exact { h with slots_ind := fun m hm => afterCalls_above hcalls hm (h.slots_ind m hm) }
  | moved hnext hwait =>
    exact { h with
      slot_lt := nextSlot_lt h hnext
      wait_le := hwait.elim (fun hw => hw ▸ h.wait_le) (fun hw => hw ▸ le_max_left _ _) }
  | confirmed hslot hswitch hnext hwait =>
    exact { h with
      slot_lt := nextSlot_lt h hnext
      wait_le := hwait.elim (fun hw => hw ▸ h.wait_le) (fun hw => hw ▸ le_max_right _ _)
      slots_isOn := fun m hm => switchEffect_isOn_above hslot hswitch hm (h.slots_isOn m hm)
      slots_ind := fun m hm => afterCalls_above (switchEffect_afterCalls hslot hswitch) hm (h.slots_ind m hm) }
  | drained _ hlegal hcalls =>
    exact { h with
      pstate_legal := hlegal
      slot_lt := nextSlot_lt h (.inr (.inl rfl))
      slots_ind := fun m hm => afterCalls_above hcalls hm (h.slots_ind m hm) }
  | ticked _ hwait => exact { h with wait_le := hwait.trans h.wait_le }
  | levelled v => exact { h with slots_pins := fun m hm => by simp [Nat.not_lt.mpr (show s.nSlots ≤ m from hm)] }
  | wasReset ch =>
    exact { h with
      pstate_legal := (by decide : pstateS0 ≠ pstateIllegal)
      slot_lt := nextSlot_lt h (.inr (.inl rfl))
      wait_le := Nat.zero_le _
      slots_isOn := fun m hm => by simp [resetTo, resetIsOn, Nat.not_lt.mpr (show s.params.nSlots ≤ m from hm)]
      slots_ind := fun m hm => by simp [resetTo, resetInd, Nat.not_lt.mpr (show s.params.nSlots ≤ m from hm)] }

end

/-! ### Every step keeps them -/

/-- Settles O45: only a push, a pop, a STEP that drains and a RESET touch the ring, and each keeps the invariant. -/
theorem ringInvariantKept : Obligations.RingInvariantKept := fun _ _ =>
  step_keeps (fun _ _ h => ringOk_of_sameRing h rfl rfl rfl rfl rfl) (fun _ _ h => ringOk_of_sameRing h rfl rfl rfl rfl rfl)
    (fun _ _ _ h hexec => opEffect_ringOk h (exec_effect hexec))

/-- Settles O47: only a confirm, a poll and a RESET write `is_on`, and each leaves it false for a momentary slot. -/
theorem momentaryBaselineKept : Obligations.MomentaryBaselineKept := fun _ _ =>
  step_keeps (fun _ _ h => h) (fun _ _ h => h) (fun _ _ _ h hexec => opEffect_momentaryOk h (exec_effect hexec))

/-- Settles O48: each effect of an operation writes legal values only. -/
theorem registersInvariantKept : Obligations.RegistersInvariantKept := fun _ _ =>
  step_keeps (fun _ _ h => { h with }) (fun _ _ h => { h with })
    (fun _ _ _ h hexec => opEffect_registersOk h (exec_effect hexec))

end Sys2Proof.Proofs
end

section
/-! PROOFS. No run stops: with the ring and the register invariants every step has a next state (R57, R260, R300). -/

namespace Sys2Proof.Proofs

open Sys2Proof Sys2Proof.Machine

section
variable {s : State}

/-! ### The arms that could fault -/

/-- The cell a pop reads is the oldest live one (R39, R183). -/
theorem ringPop_isSome (h : RingOk s) (hcount : s.count ≠ 0) : ∃ b u, ringPop s = some (b, u) := by
  have hlive : rbRead s (s.tail + 1) ≠ none := h.live 0 (Nat.pos_of_ne_zero hcount)
  obtain ⟨b, hb⟩ := Option.ne_none_iff_exists'.mp hlive
  exact ⟨b, _, ringPop_of_read hb⟩

theorem execPop_total (h : RingOk s) : ∃ t, execPop s = .next t := by
  unfold execPop
  split
  · exact ⟨_, rfl⟩
  · rename_i hcount
    obtain ⟨b, u, hpop⟩ := ringPop_isSome h hcount
    simp [hpop]

theorem midiStep_total (h : RingOk s) : ∃ t, midiStep s = .next t := by
  unfold midiStep
  split
  · exact ⟨_, rfl⟩
  · rename_i hcount
    obtain ⟨b, u, hpop⟩ := ringPop_isSome h hcount
    by_cases hp : s.pstate = pstateIllegal
    · exact ⟨raise (.refusedState b) s, by rw [hpop]; exact if_pos hp⟩
    · exact ⟨done (nextPass (parserByte b u)), by rw [hpop]; exact if_neg hp⟩

theorem onSeqSlot_total (f : State → State) (h : RegistersOk s) : ∃ t, onSeqSlot f s = .next t :=
  ⟨_, if_pos h.slot_lt⟩

theorem execStep_total (hring : RingOk s) (hregs : RegistersOk s) : ∃ t, execStep s = .next t := by
  unfold execStep
  split
  · exact ⟨_, rfl⟩
  · split
    · exact onSeqSlot_total _ hregs
    · exact onSeqSlot_total _ hregs
    · exact ⟨_, rfl⟩
    · exact midiStep_total hring

/-! ### The arms that never fault: a guard decides between two next states -/

theorem next_of_ite (c : Prop) [Decidable c] (t u : State) :
    ∃ v, (if c then .next t else .next u : Answer) = .next v := by
  split
  · exact ⟨t, rfl⟩
  · exact ⟨u, rfl⟩

theorem consumeByte_total (b : Byte) (s : State) : ∃ t, consumeByte b s = .next t := next_of_ite _ _ _

theorem execReset_total (ch : BitVec 4) (s : State) : ∃ t, execReset ch s = .next t := by
  unfold execReset
  split
  · exact ⟨_, rfl⟩
  · exact ⟨_, rfl⟩

theorem exec_total (i : Instr) (hring : RingOk s) (hregs : RegistersOk s) : ∃ t, exec i s = .next t := by
  cases i with
  | pop => exact execPop_total hring
  | step => exact execStep_total hring hregs
  | reset ch => exact execReset_total ch s
  | poll | set | onswitch => exact next_of_ite _ _ _
  | parse | midiCcsMatch | midiS0Ignore | midiS1Data | midiS1Status | midiS2Data | midiS2Status =>
    exact consumeByte_total _ s
  | push | avail | onmidi | tick | pins | reserved => exact ⟨_, rfl⟩

/-! ### Runs -/

theorem step_total (hring : RingOk s) (hregs : RegistersOk s) : ∃ t, step s = .next t := by
  obtain ⟨rest, hfetch⟩ := fetch_state s
  unfold step
  rw [hfetch]
  split
  · exact exec_total _ (ringOk_of_sameRing hring rfl rfl rfl rfl rfl) { hregs with }
  · exact ⟨_, rfl⟩

/-- A predicate that every step keeps, and that gives every step a next state, gives a run of any length. -/
theorem neverStops_of_kept {P : State → Prop} (hkept : ∀ s t, P s → step s = .next t → P t)
    (htotal : ∀ s, P s → ∃ t, step s = .next t) (h : P s) : NeverStops s := by
  intro k
  induction k generalizing s with
  | zero => exact ⟨s, run_zero s⟩
  | succ k ih =>
    obtain ⟨t, ht⟩ := htotal s h
    obtain ⟨u, hu⟩ := ih (hkept s t h ht)
    exact ⟨u, (run_succ ht k).trans hu⟩

end

/-- Settles O50: the two invariants are kept together, and under them no arm faults. -/
theorem noRunEverStops : Obligations.NoRunEverStops := fun _ hring hregs =>
  neverStops_of_kept (P := fun s => RingOk s ∧ RegistersOk s)
    (fun s t ⟨hr, hg⟩ hs => ⟨ringInvariantKept s t hr hs, registersInvariantKept s t hg hs⟩)
    (fun _ ⟨hr, hg⟩ => step_total hr hg) ⟨hring, hregs⟩

end Sys2Proof.Proofs
end

section
/-! PROOFS. Who writes what (R31), read off the effects of the operations. -/

namespace Sys2Proof.Proofs

open Sys2Proof Sys2Proof.Machine Sys2Proof.Spec

/-- Settles O51: each effect writes its own elements and leaves every other one as it was. -/
theorem everyElementHasItsWriters : Obligations.EveryElementHasItsWriters := by
  intro i s t h
  cases exec_effect h with
  | answered | raised | popped | polled | moved | confirmed | drained | ticked | levelled => simp
  | pushed b =>
    obtain ⟨cells, hd, n, heq⟩ := ringPush_frame b s
    simp [heq]
  | parsed hbyte => simp [hbyte]
  | commanded hop =>
    obtain ⟨k, o, rfl⟩ | ⟨k, o, rfl⟩ | ⟨c, v, rfl⟩ := hop
    · simp
    · simp
    · simp
  | wasReset ch => simp [resetTo]

end Sys2Proof.Proofs
end

section
/-! PROOFS. The configuration word, the idle schedule, the unwritten cell, the state after reset, and the indicator pins. -/

namespace Sys2Proof.Proofs

open Sys2Proof Sys2Proof.Machine

/-! ### The configuration word (R40, R41) -/

/-- A field of a word, as arithmetic. -/
theorem toNat_extractLsb'_div (w : CfgWord) (start len : Nat) :
    (w.extractLsb' start len).toNat = w.toNat / 2 ^ start % 2 ^ len := by
  rw [BitVec.extractLsb'_toNat, Nat.shiftRight_eq_div_pow]

/-- One bit of a word, as arithmetic. -/
theorem getLsbD_eq_decide_div (w : CfgWord) (j : Nat) : w.getLsbD j = decide (w.toNat / 2 ^ j % 2 = 1) :=
  Nat.testBit_eq_decide_div_mod_eq

theorem getLsbD_cfgReservedMask :
    ∀ j, j < 32 → cfgReservedMask.getLsbD j = decide (j = 7 ∨ j = 15 ∨ j = 23 ∨ 26 ≤ j) := by decide

theorem cfgReservedSet_eq_false_iff (p : Params) (k : Nat) :
    cfgReservedSet p k = false ↔
      ∀ j, j < 32 → (j = 7 ∨ j = 15 ∨ j = 23 ∨ 26 ≤ j) → (cfgRead p k).getLsbD j = false := by
  have hbits : cfgReservedSet p k = false ↔
      ∀ j, j < 32 → (cfgRead p k &&& cfgReservedMask).getLsbD j = (0#32).getLsbD j := by
    rw [cfgReservedSet, bne_eq_false_iff_eq]
    exact ⟨fun h j _ => by rw [h], fun h => BitVec.eq_of_getLsbD_eq h⟩
  rw [hbits]
  refine forall₂_congr fun j hj => ?_
  rw [BitVec.getLsbD_and, getLsbD_cfgReservedMask j hj, BitVec.getLsbD_zero]
  cases (cfgRead p k).getLsbD j <;> simp

/-- Settles O8: every field is a run of bits of the word, and the reserved mask covers the reserved places. -/
theorem configurationWordLayout : Obligations.ConfigurationWordLayout := fun p k =>
  ⟨(toNat_extractLsb'_div _ 0 7).trans (by simp), toNat_extractLsb'_div _ 8 7, toNat_extractLsb'_div _ 16 7,
    getLsbD_eq_decide_div _ 24, getLsbD_eq_decide_div _ 25, cfgReservedSet_eq_false_iff p k⟩

/-! ### The idle schedule (log 5) -/

/-- With an empty queue a step runs the operation the idle word spells. -/
theorem step_idle {s : State} {i : Instr} (hinput : s.input = []) (hdecode : decodeOp s.nSlots (idleWord s) = .ok i) :
    step s = exec i s :=
  step_eq_exec_of_fetch (fetch_idle hinput) hdecode

/-- Settles O10: the idle word is STEP's when SEQ is enabled and TICK 1's while it is held. -/
theorem idleStepRunsTheLoop : Obligations.IdleStepRunsTheLoop := by
  refine fun s hinput => ⟨fun hheld => step_idle hinput ?_, fun hheld => step_idle hinput ?_⟩
  · rw [idleWord, hheld]
    rfl
  · rw [idleWord, hheld]
    rfl

/-! ### The unwritten cell (R57, log 9) -/

theorem execStep_midi {s : State} (hphase : s.phase = .midi) : execStep s = midiStep s := by
  simp [execStep, held, hphase, Phase.isWait]

/-- Settles O15: the pop of such a cell answers nothing, and both operations pass that on as the fault. -/
theorem unwrittenCellFaults : Obligations.UnwrittenCellFaults := by
  intro s hcount hread
  have hne : s.count ≠ 0 := Nat.ne_of_gt hcount
  have hpop : ringPop s = none := ringPop_none.mpr hread
  refine ⟨?_, fun hphase => ?_⟩
  · show execPop s = _
    simp [execPop, hne, hpop]
  · show execStep s = _
    simp [execStep_midi hphase, midiStep, hne, hpop]

/-! ### The state after reset (R58; logs 7, 8) -/

theorem badConfigSlot_referenceParams : badConfigSlot referenceParams = none := by decide

theorem resetTo_reset : done (resetTo 0#4 State.reset) = State.reset := by decide

/-- Settles O43: no reserved bit is set in CFG_A, and every element already has its reset value. -/
theorem resetStateIsAFixedPoint : Obligations.ResetStateIsAFixedPoint := by
  show execReset 0#4 State.reset = .next State.reset
  rw [execReset, show badConfigSlot State.reset.params = none from badConfigSlot_referenceParams]
  exact congrArg _ resetTo_reset

theorem ringOk_stateReset : RingOk State.reset := by
  rw [← resetTo_reset]
  exact ringOk_of_sameRing (ringOk_reset 0#4 State.reset) rfl rfl rfl rfl rfl

/-- With no indicator lit the Output Driver's invariant holds on any configuration. -/
theorem driverOk_of_dark {s : State} (hdark : s.ind = 0#16) : DriverOk s := by
  constructor
  · intro m k _ _ _ _ hm
    simp [hdark] at hm
  · intro m _ _
    simp [hdark]

theorem momentaryOk_stateReset : MomentaryOk State.reset := by
  rw [← resetTo_reset]
  exact momentaryOk_of_sameIsOn (momentaryOk_reset 0#4 State.reset) rfl rfl

theorem registersOk_stateReset : RegistersOk State.reset where
  legal := by decide
  pstate_legal := by decide
  slot_lt := by decide
  wait_le := Nat.zero_le _
  slots_isOn _ _ := BitVec.getLsbD_zero
  slots_ind _ _ := BitVec.getLsbD_zero
  slots_pins := getLsbD_of_toNat_lt (n := 4) (by decide)

/-- Settles O49: the ring and `is_on` are as a RESET leaves them, no indicator is lit, and the registers are legal. -/
theorem invariantsHoldAtReset : Obligations.InvariantsHoldAtReset :=
  ⟨ringOk_stateReset, driverOk_of_dark rfl, momentaryOk_stateReset, registersOk_stateReset⟩

/-! ### The indicator pins (R47, R167) -/

theorem execSet_slot {slot : SlotIdx} {s : State} (on : Bool) (hslot : slot.toNat < s.nSlots) :
    execSet slot on s =
      .next { s with trace := s.trace ++ [⟨slot.toNat, on⟩], ind := driven s.params s.ind ⟨slot.toNat, on⟩,
                     result := .done } := by
  rw [execSet, if_pos hslot, driverSet_eq]
  rfl

/-- A slot with an indicator shows the level of its last call (R161-R163). -/
theorem getLsbD_driven_self {p : Params} {k : Nat} (ind : SlotBits) (on : Bool) (h16 : k < 16)
    (hindicator : hasIndicator p k = true) : (driven p ind ⟨k, on⟩).getLsbD k = on := by
  rw [getLsbD_driven]
  simp [h16, hindicator]

/-- Settles O57: the pin is the register's bit, and SET writes that bit. -/
theorem indicatorPinsShowTheRegister : Obligations.IndicatorPinsShowTheRegister := by
  refine ⟨fun s k => ⟨fun ⟨hk, hindicator⟩ => ?_, fun hmissing => ?_⟩, fun slot on s hslot hindicator => ?_⟩
  · exact indicatorPin_eq_some.mpr ⟨hk, hindicator, rfl⟩
  · exact indicatorPin_eq_none.mpr fun hk => hmissing.resolve_left (Nat.not_le.mpr hk)
  · exact ⟨_, execSet_slot on hslot,
      indicatorPin_eq_some.mpr ⟨hslot, hindicator, getLsbD_driven_self _ on slot.isLt hindicator⟩⟩

end Sys2Proof.Proofs
end

section
/-! PROOFS. The ring as a FIFO: what a push and a pop do to the live bytes, and the law over every run of them (R81, R82, R185). -/

namespace Sys2Proof.Proofs

open Sys2Proof Sys2Proof.Machine Sys2Proof.Spec

section
variable {s t : State}

/-! ### The live bytes -/

/-- The live bytes are read from the ring's elements alone. -/
theorem liveCells_of_sameRing (hparams : t.params = s.params) (hrb : t.rb = s.rb) (htail : t.tail = s.tail)
    (hcount : t.count = s.count) : liveCells t = liveCells s := by
  simp only [liveCells, rbRead, hparams, hrb, htail, hcount]

/-- While there is room, the cell that a push writes is none of the live ones (R39). -/
theorem liveIndex_ne_nextIndex_head (h : RingOk s) (hroom : s.count ≠ s.params.rbCap) {j : Nat} (hj : j < s.count) :
    (s.tail + 1 + j) % s.params.rbCap ≠ nextIndex s.params s.head := by
  have hcount : s.count < s.params.rbCap := Nat.lt_of_le_of_ne h.count_le hroom
  rw [nextIndex_head h]
  intro haddr
  have hmod : j ≡ s.count [MOD s.params.rbCap] := Nat.ModEq.add_left_cancel' _ haddr
  exact Nat.ne_of_lt hj (hmod.eq_of_lt_of_lt (hj.trans hcount) hcount)

/-- An accepted push adds its byte after the live ones (R181, R185). -/
theorem liveCells_push_room (b : Byte) (h : RingOk s) (hroom : s.count ≠ s.params.rbCap) :
    liveCells (ringPush b s) = liveCells s ++ [some b] := by
  have hold : ∀ j, j < s.count → Memory.read (Memory.write s.rb (nextIndex s.params s.head) b)
      ((s.tail + 1 + j) % s.params.rbCap) = rbRead s (s.tail + 1 + j) := fun j hj =>
    memory_read_write_ne _ _ (liveIndex_ne_nextIndex_head h hroom hj)
  have hnew : Memory.read (Memory.write s.rb (nextIndex s.params s.head) b)
      ((s.tail + 1 + s.count) % s.params.rbCap) = some b := by
    rw [← nextIndex_head h, memory_read_write_same]
  rw [ringPush_room b s hroom]
  simp only [liveCells, rbRead, List.range_succ, List.map_append, List.map_cons, List.map_nil, hnew]
  exact congrArg (· ++ [some b]) (List.map_congr_left fun j hj => hold j (List.mem_range.mp hj))

/-- A pop takes the first live byte and leaves the others in order (R183, R185). -/
theorem liveCells_pop {b : Byte} (hcount : s.count ≠ 0) (hpop : ringPop s = some (b, t)) :
    liveCells s = some b :: liveCells t := by
  obtain ⟨hread, rfl⟩ := ringPop_some hpop
  obtain ⟨n, hn⟩ := Nat.exists_eq_succ_of_ne_zero hcount
  have hshift : ∀ j, (nextIndex s.params s.tail + 1 + j) % s.params.rbCap = (s.tail + 1 + (j + 1)) % s.params.rbCap := by
    intro j
    rw [nextIndex, Nat.add_assoc, Nat.mod_add_mod, Nat.add_comm 1 j]
  simp only [liveCells, hn, List.range_succ_eq_map, List.map_cons, List.map_map, Nat.add_zero, hread, Nat.succ_sub_one]
  exact congrArg _ (List.map_congr_left fun j _ => congrArg (Memory.read s.rb) (hshift j).symm)

/-! ### The run of ring operations, one branch at a time -/

section
variable {b : Byte} {l : List (Option Byte)} {accepted popped : List Byte} {u : State}

theorem ringRun_push_full (hfull : s.count = s.params.rbCap)
    (hrun : ringRun l (done (ringPush b s)) = some (accepted, popped, u)) :
    ringRun (some b :: l) s = some (accepted, popped, u) := by
  show (ringRun l (done (ringPush b s))).map _ = _
  simp [hrun, hfull]

theorem ringRun_push_room (hroom : s.count ≠ s.params.rbCap)
    (hrun : ringRun l (done (ringPush b s)) = some (accepted, popped, u)) :
    ringRun (some b :: l) s = some (b :: accepted, popped, u) := by
  show (ringRun l (done (ringPush b s))).map _ = _
  simp [hrun, hroom]

theorem exec_pop_empty (hcount : s.count = 0) : exec .pop s = .next (raise (.popEmpty wordPop) s) :=
  if_pos hcount

theorem exec_pop_byte (hcount : s.count ≠ 0) (hpop : ringPop s = some (b, t)) :
    exec .pop s = .next { t with result := .byte b } := by
  show execPop s = _
  rw [execPop, if_neg hcount, hpop]

theorem ringRun_pop_empty (hcount : s.count = 0)
    (hrun : ringRun l (raise (.popEmpty wordPop) s) = some (accepted, popped, u)) :
    ringRun (none :: l) s = some (accepted, popped, u) := by
  simp [ringRun, exec_pop_empty hcount, hrun]

theorem ringRun_pop_byte (hcount : s.count ≠ 0) (hpop : ringPop s = some (b, t))
    (hrun : ringRun l { t with result := .byte b } = some (accepted, popped, u)) :
    ringRun (none :: l) s = some (accepted, b :: popped, u) := by
  simp [ringRun, exec_pop_byte hcount hpop, hrun]

end

/-- One more operation before a run: each keeps the ring invariant, and moves at most one byte from the accepted
to the live ones or from the live ones to the popped. -/
theorem ringRun_fifo (ops : List (Option Byte)) : ∀ s : State, RingOk s →
    ∃ accepted popped t, ringRun ops s = some (accepted, popped, t) ∧ RingOk t ∧
      liveCells s ++ accepted.map some = popped.map some ++ liveCells t := by
  induction ops with
  | nil => exact fun s h => ⟨[], [], s, rfl, h, by simp⟩
  | cons op l ih =>
    intro s h
    cases op with
    | some b =>
      have hpush : RingOk (done (ringPush b s)) := ringOk_of_sameRing (ringOk_push b h) rfl rfl rfl rfl rfl
      obtain ⟨accepted, popped, t, hrun, hok, hfifo⟩ := ih _ hpush
      by_cases hfull : s.count = s.params.rbCap
      · have hlive : liveCells (done (ringPush b s)) = liveCells s := by
          rw [ringPush_full b s hfull]
          exact liveCells_of_sameRing rfl rfl rfl rfl
        exact ⟨accepted, popped, t, ringRun_push_full hfull hrun, hok, hlive ▸ hfifo⟩
      · have hlive : liveCells (done (ringPush b s)) = liveCells s ++ [some b] := liveCells_push_room b h hfull
        exact ⟨b :: accepted, popped, t, ringRun_push_room hfull hrun, hok, by simpa [hlive] using hfifo⟩
    | none =>
      by_cases hcount : s.count = 0
      · obtain ⟨accepted, popped, t, hrun, hok, hfifo⟩ :=
          ih (raise (.popEmpty wordPop) s) (ringOk_of_sameRing h rfl rfl rfl rfl rfl)
        exact ⟨accepted, popped, t, ringRun_pop_empty hcount hrun, hok, hfifo⟩
      · obtain ⟨b, u, hpop⟩ := ringPop_isSome h hcount
        have hpopped : RingOk { u with result := .byte b } := opEffect_ringOk h (exec_effect (exec_pop_byte hcount hpop))
        obtain ⟨accepted, popped, t, hrun, hok, hfifo⟩ := ih _ hpopped
        have hlive : liveCells s = some b :: liveCells { u with result := .byte b } :=
          (liveCells_pop hcount hpop).trans rfl
        exact ⟨accepted, b :: popped, t, ringRun_pop_byte hcount hpop hrun, hok, by simpa [hlive] using hfifo⟩

end

/-- Settles O17, by induction on the operations: the live bytes are the queue between the accepted and the popped ones. -/
theorem popsReturnAcceptedPushesInOrder : Obligations.PopsReturnAcceptedPushesInOrder := ringRun_fifo

end Sys2Proof.Proofs
end

section
/-! PROOFS. A push and a pop in one clock cycle (R14, R81, R273), and the step at a position that names no slot (log 10). -/

namespace Sys2Proof.Proofs

open Sys2Proof Sys2Proof.Machine Sys2Proof.Spec

/-! ### The words of the two events (R108, R112) -/

theorem decodeOp_wordPush (n : Nat) (b : Byte) : decodeOp n (wordPush b) = .ok (.push b) := by
  have hword : wordPush b = 0x1000#16 ++ b := rfl
  have hop : opField (wordPush b) = 1#4 := by
    rw [hword, opField, BitVec.extractLsb'_append_eq_of_le (by decide)]
    rfl
  have hzero : (wordPush b).extractLsb' 8 12 = 0#12 := by
    rw [hword, BitVec.extractLsb'_append_eq_of_le (by decide)]
    rfl
  have hbyte : byteField (wordPush b) = b := by
    rw [hword, byteField, BitVec.extractLsb'_append_eq_of_add_le (by decide), BitVec.extractLsb'_eq_self]
  simp [decodeOp, whenZero, hop, hzero, hbyte]

theorem decodeOp_wordStep (n : Nat) : decodeOp n wordStep = .ok .step := rfl

section
variable {s t u : State} {b : Byte} {rest : List Input}

/-! ### The cycle as two steps -/

theorem held_midi (hphase : s.phase = .midi) : held s = false := by
  simp [held, hphase, Phase.isWait]

theorem step_sameCycle_loopFirst (hinput : s.input = .sameCycle b :: rest) (hheld : held s = false)
    (horder : s.params.collisionOrder = .loopFirst) :
    step s = exec .step { s with input := .code (.op (wordPush b)) :: rest } :=
  step_eq_exec_of_fetch (c := .op wordStep) (by simp [fetch, hinput, fetchSameCycle, hheld, horder]) (decodeOp_wordStep s.nSlots)

theorem step_sameCycle_pushFirst (hinput : s.input = .sameCycle b :: rest) (hheld : held s = false)
    (horder : s.params.collisionOrder = .pushFirst) :
    step s = exec (.push b) { s with input := .code (.op wordStep) :: rest } :=
  step_eq_exec_of_fetch (c := .op (wordPush b)) (by simp [fetch, hinput, fetchSameCycle, hheld, horder]) (decodeOp_wordPush _ b)

theorem run_two (hfirst : step s = .next t) (hsecond : step t = .next u) : Sys2Proof.core.run 2 s = .next u :=
  (run_succ hfirst 1).trans (run_succ hsecond 0)

/-! ### What each of the two does to the count -/

/-- A push counts its byte unless the buffer is full, and takes no event (R181, R308). -/
theorem exec_push_count (b : Byte) (s : State) :
    ∃ t, exec (.push b) s = .next t ∧ t.phase = s.phase ∧ t.input = s.input ∧
      t.count = s.count + (if s.count = s.params.rbCap then 0 else 1) := by
  refine ⟨done (ringPush b s), rfl, ?_⟩
  by_cases hfull : s.count = s.params.rbCap
  · simp [ringPush_full b s hfull, hfull]
  · simp [ringPush_room b s hfull, hfull]

theorem midiStep_empty (hcount : s.count = 0) : midiStep s = .next (done (nextPass s)) := if_pos hcount

theorem midiStep_drain (hcount : s.count ≠ 0) (hpop : ringPop s = some (b, t)) (hp : s.pstate ≠ pstateIllegal) :
    midiStep s = .next (done (nextPass (parserByte b t))) := by
  rw [midiStep, if_neg hcount, hpop]
  exact if_neg hp

/-- A STEP in the MIDI phase takes one byte off the count if there is one, and no event (R265). -/
theorem exec_step_midi (hring : RingOk s) (hregs : RegistersOk s) (hphase : s.phase = .midi) :
    ∃ t, exec .step s = .next t ∧ t.params = s.params ∧ t.input = s.input ∧ t.count = s.count - 1 := by
  have hexec : exec .step s = midiStep s := execStep_midi hphase
  by_cases hcount : s.count = 0
  · exact ⟨_, hexec.trans (midiStep_empty hcount), rfl, rfl, by simp [hcount]⟩
  · obtain ⟨b, u, hpop⟩ := ringPop_isSome hring hcount
    obtain ⟨_, rfl⟩ := ringPop_some hpop
    obtain ⟨ps, pd, tr, ind, hparse, _⟩ := parserByte_eq b { s with tail := nextIndex s.params s.tail, count := s.count - 1 }
    refine ⟨_, hexec.trans (midiStep_drain hcount hpop hregs.pstate_legal), ?_⟩
    simp [hparse]

/-! ### Both orders -/

/-- The loop step first: the push is decided against the count after the pop. -/
theorem sameCycle_loopFirst (hring : RingOk s) (hregs : RegistersOk s) (hphase : s.phase = .midi)
    (hinput : s.input = .sameCycle b :: rest) (horder : s.params.collisionOrder = .loopFirst) :
    ∃ t, Sys2Proof.core.run 2 s = .next t ∧ t.input = rest ∧
      t.count + min s.count 1 = s.count + (if s.count - min s.count 1 = s.params.rbCap then 0 else 1) := by
  obtain ⟨u, hstep, hparams, hqueue, hcount⟩ :=
    exec_step_midi (s := { s with input := .code (.op (wordPush b)) :: rest })
      (ringOk_of_sameRing hring rfl rfl rfl rfl rfl) { hregs with } hphase
  have hfirst : step s = .next u := (step_sameCycle_loopFirst hinput (held_midi hphase) horder).trans hstep
  obtain ⟨t, hpush, _, hrest, hpushed⟩ := exec_push_count b { u with input := rest }
  have hsecond : step u = .next t :=
    (stepRunsTheDecodedOperation u _ rest _ hqueue (decodeOp_wordPush _ b)).trans hpush
  refine ⟨t, run_two hfirst hsecond, hrest, ?_⟩
  have htaken : s.count - min s.count 1 = s.count - 1 := by omega
  simp only [hparams, hcount] at hpushed
  rw [htaken]
  omega

/-- The push first: it is decided against the count as it stood, and a byte is there to pop. -/
theorem sameCycle_pushFirst (hring : RingOk s) (hregs : RegistersOk s) (hphase : s.phase = .midi)
    (hinput : s.input = .sameCycle b :: rest) (horder : s.params.collisionOrder = .pushFirst) :
    ∃ t, Sys2Proof.core.run 2 s = .next t ∧ t.input = rest ∧
      t.count + 1 = s.count + (if s.count = s.params.rbCap then 0 else 1) := by
  obtain ⟨u, hpush, huphase, hqueue, hpushed⟩ := exec_push_count b { s with input := .code (.op wordStep) :: rest }
  have hfirst : step s = .next u := (step_sameCycle_pushFirst hinput (held_midi hphase) horder).trans hpush
  have huring : RingOk u := ringInvariantKept s u hring hfirst
  have huregs : RegistersOk u := registersInvariantKept s u hregs hfirst
  obtain ⟨t, hstep, _, hrest, hcount⟩ := exec_step_midi (s := { u with input := rest })
    (ringOk_of_sameRing huring rfl rfl rfl rfl rfl) { huregs with } (huphase.trans hphase)
  have hsecond : step u = .next t :=
    (stepRunsTheDecodedOperation u _ rest _ hqueue (decodeOp_wordStep u.nSlots)).trans hstep
  refine ⟨t, run_two hfirst hsecond, hrest, ?_⟩
  have hcap : 0 < s.params.rbCap := rbCap_pos _
  have hpos : 0 < s.count + (if s.count = s.params.rbCap then 0 else 1) := by
    split <;> omega
  simp only at hpushed hcount
  omega

end

/-- Settles O11: the cycle is a push and a MIDI step one after the other, and each counts its own byte. -/
theorem sameCycleCountsPushAndPop : Obligations.SameCycleCountsPushAndPop :=
  fun _ _ _ hring hregs hphase hinput =>
    ⟨sameCycle_loopFirst hring hregs hphase hinput, sameCycle_pushFirst hring hregs hphase hinput⟩

/-! ### No slot at the position -/

theorem execStep_sample {s : State} (hphase : s.phase = .sample) : execStep s = onSeqSlot sampleStep s := by
  simp [execStep, held, hphase, Phase.isWait]

theorem execStep_debounce {s : State} (hphase : s.phase = .debounce) (hwait : s.waitCtr = 0) :
    execStep s = onSeqSlot confirmStep s := by
  simp [execStep, held, hphase, hwait]

theorem onSeqSlot_fault {s : State} (f : State → State) (hslot : s.nSlots ≤ s.seqSlot.toNat) :
    onSeqSlot f s = .fault .seqSlotNoSlot := if_neg (Nat.not_lt.mpr hslot)

/-- Settles O38: both phases act through `onSeqSlot`, which asks for the slot first. -/
theorem stepAtNoSlotFaults : Obligations.StepAtNoSlotFaults := by
  rintro s hslot (hphase | ⟨hphase, hwait⟩)
  · exact (execStep_sample hphase).trans (onSeqSlot_fault _ hslot)
  · exact (execStep_debounce hphase hwait).trans (onSeqSlot_fault _ hslot)

end Sys2Proof.Proofs
end

section
/-! PROOFS. The two forms of code word as runs of bits: the fields of an operation word (R107-R110) and the classes of a MIDI byte
(R100-R105). -/

namespace Sys2Proof.Proofs

open Sys2Proof Sys2Proof.Machine Sys2Proof.Spec

/-! ### A word made of its fields -/

/-- The word whose run of bits from `start` is `x`, every other bit zero. -/
def place {len : Nat} (start : Nat) (x : BitVec len) : OpWord := x.setWidth 24 <<< start

theorem place_zero {len : Nat} (x : BitVec len) : place 0 x = x.setWidth 24 := by
  simp [place]

theorem extractLsb'_place_self {start len : Nat} (x : BitVec len) (h : start + len ≤ 24) :
    (place start x).extractLsb' start len = x := by
  refine BitVec.eq_of_getLsbD_eq fun k hk => ?_
  have hplace : start + k < 24 := by omega
  simp [place, hk, hplace]

theorem extractLsb'_place_disjoint {start len first n : Nat} (x : BitVec len)
    (h : first + n ≤ start ∨ start + len ≤ first) : (place start x).extractLsb' first n = 0#n := by
  refine BitVec.eq_of_getLsbD_eq fun k hk => ?_
  rcases h with hbelow | habove
  · have hlt : first + k < start := by omega
    simp [place, hlt]
  · have hge : len ≤ first + k - start := by omega
    simp [place, hge]

/-- Two words that agree on two neighbouring runs of bits agree on both together. -/
theorem extractLsb'_join {w v : OpWord} {start l₁ l₂ : Nat} (hlo : w.extractLsb' start l₁ = v.extractLsb' start l₁)
    (hhi : w.extractLsb' (start + l₁) l₂ = v.extractLsb' (start + l₁) l₂) :
    w.extractLsb' start (l₂ + l₁) = v.extractLsb' start (l₂ + l₁) := by
  rw [← BitVec.extractLsb'_append_extractLsb'_eq_extractLsb' rfl,
    ← BitVec.extractLsb'_append_extractLsb'_eq_extractLsb' rfl, hlo, hhi]

/-- Two words with the same opcode and the same twenty bits below it are the same. -/
theorem opWord_ext {w v : OpWord} (hrest : restField w = restField v) (hop : opField w = opField v) : w = v := by
  have hall : w.extractLsb' 0 24 = v.extractLsb' 0 24 := extractLsb'_join hrest hop
  rwa [BitVec.extractLsb'_eq_self, BitVec.extractLsb'_eq_self] at hall

/-- The formats with one operand in the low `m` bits (R108): PUSH, PARSE, TICK, PINS, RESET; with `m = 20` also a word of an
opcode alone. -/
theorem lowFormat_iff {m n : Nat} (hm : n + m = 20) {op : BitVec 4} {x : BitVec m} {w : OpWord} :
    place 20 op ||| x.setWidth 24 = w ↔ opField w = op ∧ w.extractLsb' m n = 0#n ∧ w.extractLsb' 0 m = x := by
  have hfields : ∀ v : OpWord, place 20 op ||| x.setWidth 24 = v →
      opField v = op ∧ v.extractLsb' m n = 0#n ∧ v.extractLsb' 0 m = x := by
    rintro _ rfl
    rw [← place_zero]
    simp (disch := omega) [opField, BitVec.extractLsb'_or, extractLsb'_place_self, extractLsb'_place_disjoint]
  refine ⟨hfields w, ?_⟩
  rintro ⟨hop', hzero', hlow'⟩
  obtain ⟨hop, hzero, hlow⟩ := hfields _ rfl
  have hrest := extractLsb'_join (hlow.trans hlow'.symm) (by simpa using hzero.trans hzero'.symm)
  rw [hm] at hrest
  exact opWord_ext hrest (hop.trans hop'.symm)

/-- The format of POLL (R108). -/
theorem slotFormat_iff {op : BitVec 4} {slot : SlotIdx} {w : OpWord} :
    place 20 op ||| place 16 slot = w ↔ opField w = op ∧ slotField w = slot ∧ w.extractLsb' 0 16 = 0#16 := by
  have hfields : ∀ v : OpWord, place 20 op ||| place 16 slot = v →
      opField v = op ∧ slotField v = slot ∧ v.extractLsb' 0 16 = 0#16 := by
    rintro _ rfl
    simp [opField, slotField, BitVec.extractLsb'_or, extractLsb'_place_self, extractLsb'_place_disjoint]
  refine ⟨hfields w, ?_⟩
  rintro ⟨hop', hslot', hzero'⟩
  obtain ⟨hop, hslot, hzero⟩ := hfields _ rfl
  exact opWord_ext (extractLsb'_join (hzero.trans hzero'.symm) (hslot.trans hslot'.symm)) (hop.trans hop'.symm)

/-- Bit 15 is a run of one bit. -/
theorem extractLsb'_onField (w : OpWord) : w.extractLsb' 15 1 = BitVec.ofBool (onField w) := by
  refine BitVec.eq_of_getLsbD_eq fun k hk => ?_
  obtain rfl : k = 0 := by omega
  simp [onField]

/-- The format of SET and ONSWITCH (R108). -/
theorem slotOnFormat_iff {op : BitVec 4} {slot : SlotIdx} {on : Bool} {w : OpWord} :
    place 20 op ||| place 16 slot ||| place 15 (BitVec.ofBool on) = w ↔
      opField w = op ∧ slotField w = slot ∧ onField w = on ∧ w.extractLsb' 0 15 = 0#15 := by
  have hfields : ∀ v : OpWord, place 20 op ||| place 16 slot ||| place 15 (BitVec.ofBool on) = v →
      opField v = op ∧ slotField v = slot ∧ v.extractLsb' 15 1 = BitVec.ofBool on ∧ v.extractLsb' 0 15 = 0#15 := by
    rintro _ rfl
    simp [opField, slotField, BitVec.extractLsb'_or, extractLsb'_place_self, extractLsb'_place_disjoint]
  constructor
  · intro hw
    obtain ⟨hop, hslot, hon, hzero⟩ := hfields w hw
    exact ⟨hop, hslot, BitVec.ofBool_eq_iff_eq.mp ((extractLsb'_onField w).symm.trans hon), hzero⟩
  · rintro ⟨hop', hslot', hon', hzero'⟩
    obtain ⟨hop, hslot, hon, hzero⟩ := hfields _ rfl
    have hbit : w.extractLsb' 15 1 = BitVec.ofBool on := hon' ▸ extractLsb'_onField w
    exact opWord_ext (extractLsb'_join (extractLsb'_join (hzero.trans hzero'.symm) (hon.trans hbit.symm))
      (hslot.trans hslot'.symm)) (hop.trans hop'.symm)

/-- The format of ONMIDI (R108). -/
theorem onmidiFormat_iff {op : BitVec 4} {cc val : Data7} {w : OpWord} :
    place 20 op ||| place 8 cc ||| val.setWidth 24 = w ↔
      opField w = op ∧ w.extractLsb' 15 5 = 0#5 ∧ ccField w = cc ∧ w.extractLsb' 7 1 = 0#1 ∧ valField w = val := by
  have hfields : ∀ v : OpWord, place 20 op ||| place 8 cc ||| val.setWidth 24 = v →
      opField v = op ∧ v.extractLsb' 15 5 = 0#5 ∧ ccField v = cc ∧ v.extractLsb' 7 1 = 0#1 ∧ valField v = val := by
    rintro _ rfl
    rw [← place_zero]
    simp [opField, ccField, valField, BitVec.extractLsb'_or, extractLsb'_place_self, extractLsb'_place_disjoint]
  refine ⟨hfields w, ?_⟩
  rintro ⟨hop', hhi', hcc', hbit', hval'⟩
  obtain ⟨hop, hhi, hcc, hbit, hval⟩ := hfields _ rfl
  exact opWord_ext (extractLsb'_join (extractLsb'_join (extractLsb'_join (hval.trans hval'.symm) (hbit.trans hbit'.symm))
    (hcc.trans hcc'.symm)) (hhi.trans hhi'.symm)) (hop.trans hop'.symm)

/-! ### The operation a word spells -/

/-- The table of R108: what the fields of the word `w` are when it spells the operation. -/
def Spells (w : OpWord) : Instr → Prop
  | .push b => opField w = 0x1#4 ∧ w.extractLsb' 8 12 = 0#12 ∧ byteField w = b
  | .pop => opField w = 0x2#4 ∧ restField w = 0#20
  | .avail => opField w = 0x3#4 ∧ restField w = 0#20
  | .parse b => opField w = 0x4#4 ∧ w.extractLsb' 8 12 = 0#12 ∧ byteField w = b
  | .poll s => opField w = 0x5#4 ∧ slotField w = s ∧ w.extractLsb' 0 16 = 0#16
  | .set s on => opField w = 0x6#4 ∧ slotField w = s ∧ onField w = on ∧ w.extractLsb' 0 15 = 0#15
  | .onmidi cc val =>
    opField w = 0x7#4 ∧ w.extractLsb' 15 5 = 0#5 ∧ ccField w = cc ∧ w.extractLsb' 7 1 = 0#1 ∧ valField w = val
  | .onswitch s on => opField w = 0x8#4 ∧ slotField w = s ∧ onField w = on ∧ w.extractLsb' 0 15 = 0#15
  | .step => opField w = 0x9#4 ∧ restField w = 0#20
  | .tick n => opField w = 0xA#4 ∧ w.extractLsb' 16 4 = 0#4 ∧ immField w = n
  | .pins v => opField w = 0xB#4 ∧ w.extractLsb' 16 4 = 0#4 ∧ immField w = v
  | .reset ch => opField w = 0xC#4 ∧ w.extractLsb' 4 16 = 0#16 ∧ chField w = ch
  | .reserved op rest => opField w = op ∧ restField w = rest
  | .midiCcsMatch _ | .midiS0Ignore _ | .midiS1Data _ | .midiS1Status _ | .midiS2Data _ | .midiS2Status _ => False

/-- A word of an opcode and the twenty bits below it. -/
theorem wordReserved_eq_iff {op : BitVec 4} {rest : BitVec 20} {w : OpWord} :
    wordReserved op rest = w ↔ opField w = op ∧ restField w = rest := by
  simpa [place, wordReserved, restField] using lowFormat_iff (Nat.zero_add 20) (op := op) (x := rest) (w := w)

theorem codeWord_op_inj {w v : OpWord} : CodeWord.op w = .op v ↔ w = v := by simp

/-- The encoder writes the word with these fields, and no operation has another word. -/
theorem encode_eq_op_iff {i : Instr} {w : OpWord} : encode i = .op w ↔ Spells w i := by
  cases i with
  | push => exact codeWord_op_inj.trans (lowFormat_iff (op := 0x1#4) rfl)
  | pop => exact codeWord_op_inj.trans (wordReserved_eq_iff (op := 0x2#4) (rest := 0#20))
  | avail => exact codeWord_op_inj.trans (wordReserved_eq_iff (op := 0x3#4) (rest := 0#20))
  | parse => exact codeWord_op_inj.trans (lowFormat_iff (op := 0x4#4) rfl)
  | poll => exact codeWord_op_inj.trans (slotFormat_iff (op := 0x5#4))
  | set => exact codeWord_op_inj.trans (slotOnFormat_iff (op := 0x6#4))
  | onmidi => exact codeWord_op_inj.trans (onmidiFormat_iff (op := 0x7#4))
  | onswitch => exact codeWord_op_inj.trans (slotOnFormat_iff (op := 0x8#4))
  | step => exact codeWord_op_inj.trans (wordReserved_eq_iff (op := 0x9#4) (rest := 0#20))
  | tick => exact codeWord_op_inj.trans (lowFormat_iff (op := 0xA#4) rfl)
  | pins => exact codeWord_op_inj.trans (lowFormat_iff (op := 0xB#4) rfl)
  | reset => exact codeWord_op_inj.trans (lowFormat_iff (op := 0xC#4) rfl)
  | reserved => exact codeWord_op_inj.trans wordReserved_eq_iff
  | midiCcsMatch | midiS0Ignore | midiS1Data | midiS1Status | midiS2Data | midiS2Status =>
    exact ⟨CodeWord.noConfusion, False.elim⟩

/-! ### What the decoder answers -/

theorem whenZero_eq_ok_iff {w : OpWord} {zero : Bool} {i j : Instr} :
    whenZero w zero i = .ok j ↔ zero = true ∧ i = j := by
  cases zero <;> simp [whenZero]

/-- A word that spells no operation is refused for its reserved bits, the word itself recorded (R112). -/
theorem decodeOp_ok_or_reservedBits (n : Nat) (w : OpWord) :
    (∃ i, decodeOp n w = .ok i) ∨ decodeOp n w = .error (.reservedBits w) := by
  have hwhen : ∀ (zero : Bool) (i : Instr),
      (∃ j, whenZero w zero i = .ok j) ∨ whenZero w zero i = .error (.reservedBits w) := by
    intro zero i
    cases zero
    · exact .inr rfl
    · exact .inl ⟨i, rfl⟩
  unfold decodeOp
  split
  case h_13 => exact .inl ⟨_, rfl⟩
  all_goals exact hwhen _ _

/-- A word with the fields of a well-formed operation decodes to it. -/
theorem decodeOp_of_spells {c : DecodeCtx} {w : OpWord} {i : Instr} (h : Spells w i) (hwf : i.wellFormed c = true) :
    decodeOp c.nSlots w = .ok i := by
  cases i with
  | push | parse | tick | reset =>
    obtain ⟨hop, hzero, rfl⟩ := h
    simp [decodeOp, whenZero, hop, hzero]
  | pop | avail | step =>
    obtain ⟨hop, hzero⟩ := h
    simp [decodeOp, whenZero, hop, hzero]
  | poll =>
    obtain ⟨hop, rfl, hzero⟩ := h
    simp [decodeOp, whenZero, hop, hzero]
  | set | onswitch =>
    obtain ⟨hop, rfl, rfl, hzero⟩ := h
    simp [decodeOp, whenZero, hop, hzero]
  | onmidi =>
    obtain ⟨hop, hhigh, rfl, hbit, rfl⟩ := h
    simp [decodeOp, whenZero, hop, hhigh, hbit]
  | pins =>
    obtain ⟨hop, hzero, rfl⟩ := h
    have hlevels : (immField w).toNat < 2 ^ c.nSlots := by simpa [Instr.wellFormed] using hwf
    simp [decodeOp, whenZero, hop, hzero, hlevels]
  | reserved =>
    obtain ⟨rfl, rfl⟩ := h
    simp only [Instr.wellFormed, Bool.or_eq_true, decide_eq_true_eq, or_assoc] at hwf
    rcases hwf with hop | hop | hop | hop <;> simp [decodeOp, hop]
  | midiCcsMatch | midiS0Ignore | midiS1Data | midiS1Status | midiS2Data | midiS2Status => exact h.elim

/-- The operation a word decodes to is well-formed, and the word has its fields. -/
theorem spells_of_decodeOp {c : DecodeCtx} {w : OpWord} {i : Instr} (h : decodeOp c.nSlots w = .ok i) :
    i.wellFormed c = true ∧ Spells w i := by
  unfold decodeOp at h
  split at h
  case h_13 =>
    cases h
    refine ⟨?_, rfl, rfl⟩
    have hop : (opField w).toNat = 0 ∨ (opField w).toNat = 13 ∨ (opField w).toNat = 14 ∨ (opField w).toNat = 15 := by
      have hlt := (opField w).isLt
      simp only [imp_false] at *
      omega
    simpa [Instr.wellFormed, ← BitVec.toNat_inj, or_assoc] using hop
  all_goals
    rename_i hnum
    obtain ⟨hzero, rfl⟩ := whenZero_eq_ok_iff.mp h
    have hop := congrArg (BitVec.ofNat 4) hnum
    rw [BitVec.ofNat_toNat, BitVec.setWidth_eq] at hop
    simpa [Instr.wellFormed, Spells, hop, and_comm] using hzero

/-! ### The classes of a MIDI byte (R100, R105) -/

section
variable {b : Byte} {chan : BitVec 4}

theorem isStatus_dataByte (d : Data7) : isStatus (dataByte d) = false := by simp [isStatus, dataByte]

theorem isStatus_statusByte (low : Data7) : isStatus (statusByte low) = true := by simp [isStatus, statusByte]

theorem low7_dataByte (d : Data7) : low7 (dataByte d) = d := by
  refine BitVec.eq_of_getLsbD_eq fun k hk => ?_
  have hbyte : k < 8 := by omega
  simp [low7, dataByte, hk, hbyte]

theorem low7_statusByte (low : Data7) : low7 (statusByte low) = low := by
  refine BitVec.eq_of_getLsbD_eq fun k hk => ?_
  interval_cases k <;> simp [low7, statusByte]

/-- A byte is its bit 7 and its low seven bits. -/
theorem byte_ext {a b : Byte} (hlow : low7 a = low7 b) (hstatus : isStatus a = isStatus b) : a = b := by
  refine BitVec.eq_of_getLsbD_eq fun k hk => ?_
  by_cases h7 : k = 7
  · exact h7 ▸ hstatus
  · have hlt : k < 7 := by omega
    have hbit := congrArg (·.getLsbD k) hlow
    simpa [low7, hlt] using hbit

/-! Each class has its equation (R105). -/

theorem decodeMidi_match (h : b = ccStatus chan) : decodeMidi pstateS0 chan b = .ok (.midiCcsMatch chan) := by
  simp [decodeMidi, h]

theorem decodeMidi_ignore (h : b ≠ ccStatus chan) : decodeMidi pstateS0 chan b = .ok (.midiS0Ignore b) := by
  simp [decodeMidi, h]

theorem decodeMidi_s1_data (h : isStatus b = false) : decodeMidi pstateS1 chan b = .ok (.midiS1Data (low7 b)) := by
  simp [decodeMidi, h]

theorem decodeMidi_s1_status (h : isStatus b = true) : decodeMidi pstateS1 chan b = .ok (.midiS1Status (low7 b)) := by
  simp [decodeMidi, h]

theorem decodeMidi_s2_data (h : isStatus b = false) : decodeMidi pstateS2 chan b = .ok (.midiS2Data (low7 b)) := by
  simp [decodeMidi, h]

theorem decodeMidi_s2_status (h : isStatus b = true) : decodeMidi pstateS2 chan b = .ok (.midiS2Status (low7 b)) := by
  simp [decodeMidi, h]

/-- The byte of a well-formed byte class has that class. -/
theorem decodeMidi_of_encode {c : DecodeCtx} {i : Instr} (h : encode i = .midi b) (hwf : i.wellFormed c = true) :
    decodeMidi c.pstate c.chanBits b = .ok i := by
  cases i with
  | midiCcsMatch ch =>
    cases h
    obtain ⟨hp, rfl⟩ : c.pstate = pstateS0 ∧ ch = c.chanBits := by simpa [Instr.wellFormed] using hwf
    rw [hp, decodeMidi_match rfl]
  | midiS0Ignore =>
    cases h
    obtain ⟨hp, hb⟩ : c.pstate = pstateS0 ∧ b ≠ ccStatus c.chanBits := by simpa [Instr.wellFormed, ccStatus] using hwf
    rw [hp, decodeMidi_ignore hb]
  | midiS1Data d =>
    cases h
    have hp : c.pstate = pstateS1 := of_decide_eq_true hwf
    rw [hp, decodeMidi_s1_data (isStatus_dataByte d), low7_dataByte]
  | midiS1Status low =>
    cases h
    have hp : c.pstate = pstateS1 := of_decide_eq_true hwf
    rw [hp, decodeMidi_s1_status (isStatus_statusByte low), low7_statusByte]
  | midiS2Data d =>
    cases h
    have hp : c.pstate = pstateS2 := of_decide_eq_true hwf
    rw [hp, decodeMidi_s2_data (isStatus_dataByte d), low7_dataByte]
  | midiS2Status low =>
    cases h
    have hp : c.pstate = pstateS2 := of_decide_eq_true hwf
    rw [hp, decodeMidi_s2_status (isStatus_statusByte low), low7_statusByte]
  | push | pop | avail | parse | poll | set | onmidi | onswitch | step | tick | pins | reset | reserved => cases h

theorem dataByte_low7 (h : isStatus b = false) : dataByte (low7 b) = b :=
  byte_ext (low7_dataByte _) ((isStatus_dataByte _).trans h.symm)

theorem statusByte_low7 (h : isStatus b = true) : statusByte (low7 b) = b :=
  byte_ext (low7_statusByte _) ((isStatus_statusByte _).trans h.symm)

/-- The class of a byte is well-formed, and no other byte spells it. -/
theorem encode_of_decodeMidi {c : DecodeCtx} {i : Instr} (h : decodeMidi c.pstate c.chanBits b = .ok i) :
    i.wellFormed c = true ∧ encode i = .midi b := by
  have hdata : ¬ isStatus b = true → dataByte (low7 b) = b := fun hb => dataByte_low7 (by simpa using hb)
  unfold decodeMidi at h
  split at h
  · rename_i hp
    split at h <;> cases h
    · rename_i hb
      exact ⟨by simp [Instr.wellFormed, hp], by rw [hb]; rfl⟩
    · rename_i hb
      exact ⟨by simpa [Instr.wellFormed, ccStatus, hp] using hb, rfl⟩
  · split at h
    · rename_i hp
      split at h <;> cases h
      · exact ⟨decide_eq_true hp, congrArg _ (statusByte_low7 ‹_›)⟩
      · exact ⟨decide_eq_true hp, congrArg _ (hdata ‹_›)⟩
    · split at h
      · rename_i hp
        split at h <;> cases h
        · exact ⟨decide_eq_true hp, congrArg _ (statusByte_low7 ‹_›)⟩
        · exact ⟨decide_eq_true hp, congrArg _ (hdata ‹_›)⟩
      · cases h

end

/-! ### The round trips -/

/-- Settles O1: an operation word has the fields of its operation, which the decoder reads, and a MIDI byte has its class. -/
theorem encodedOperationsDecodeBack : Obligations.EncodedOperationsDecodeBack := by
  intro c i hwf
  cases hcode : encode i with
  | op w => exact decodeOp_of_spells (encode_eq_op_iff.mp hcode) hwf
  | midi b => exact decodeMidi_of_encode hcode hwf

/-- Settles O2: the decoder tests every bit of a word that is in no operand, so the operation's fields are the whole word. -/
theorem decodedWordsEncodeBack : Obligations.DecodedWordsEncodeBack := by
  intro c w i h
  cases w with
  | op w =>
    obtain ⟨hwf, hspells⟩ := spells_of_decodeOp h
    exact ⟨hwf, encode_eq_op_iff.mpr hspells⟩
  | midi b => exact encode_of_decodeMidi h

end Sys2Proof.Proofs
end

section
/-! PROOFS. The encoder's and the decoder's tables (R105, R115), and the words that are refused (R108, R111, R112). -/

namespace Sys2Proof.Proofs

open Sys2Proof Sys2Proof.Machine Sys2Proof.Spec

/-! ### The tables -/

/-- Settles O3: the encoder's own words, the `on` bit written out for each of its values. -/
theorem operationWordsOfTheSyntaxTable : Obligations.OperationWordsOfTheSyntaxTable := by
  have hoff : ∀ w : OpWord, w ||| (BitVec.ofBool false).setWidth 24 <<< 15 = w := fun w => BitVec.or_zero
  exact ⟨fun _ => rfl, rfl, rfl, fun _ => rfl, fun _ => rfl, fun _ => rfl, fun _ => congrArg _ (hoff _), fun _ _ => rfl,
    fun _ => rfl, fun _ => congrArg _ (hoff _), rfl, fun _ => rfl, fun _ => rfl, fun _ => rfl⟩

/-- Settles O4: each word is decoded by computation. -/
theorem knownWordsDecode : Obligations.KnownWordsDecode :=
  ⟨rfl, rfl, rfl, rfl, rfl, rfl, rfl, rfl⟩

theorem low7_eq_setWidth (b : Byte) : low7 b = b.setWidth 7 := (BitVec.setWidth_eq_extractLsb' (by decide)).symm

/-- Settles O5: one equation of the decoder per row. -/
theorem midiByteDecodeTable : Obligations.MidiByteDecodeTable := fun _ b =>
  ⟨decodeMidi_match, decodeMidi_ignore, low7_eq_setWidth b ▸ decodeMidi_s1_data, low7_eq_setWidth b ▸ decodeMidi_s1_status,
    low7_eq_setWidth b ▸ decodeMidi_s2_data, low7_eq_setWidth b ▸ decodeMidi_s2_status⟩

/-! ### Reserved opcodes (R111) -/

theorem raise_eq_recorded (e : ModelOutcome) (s : State) : raise e s = recorded e s := rfl

/-- The opcode as the spec's arithmetic on the word has it. -/
theorem toNat_shiftRight_20 (w : OpWord) : (w >>> 20).toNat = (opField w).toNat := by
  have hlt := w.isLt
  simp only [opField, BitVec.toNat_ushiftRight, BitVec.extractLsb'_toNat, Nat.shiftRight_eq_div_pow]
  omega

theorem exec_reserved (s : State) {w : OpWord} {op : BitVec 4} {rest : BitVec 20} (h : encode (.reserved op rest) = .op w) :
    exec (.reserved op rest) s = .next (recorded (.refusedEncoding w) s) := by
  obtain rfl : wordReserved op rest = w := codeWord_op_inj.mp h
  rfl

section
variable {s : State} {w : OpWord} {rest : List Input}

/-- A step on a word that decodes to a reserved operation records that word. -/
theorem step_reserved {op : BitVec 4} {low : BitVec 20} (hinput : s.input = .code (.op w) :: rest)
    (hdecode : decodeOp s.nSlots w = .ok (.reserved op low)) :
    step s = .next (recorded (.refusedEncoding w) { s with input := rest }) :=
  (stepRunsTheDecodedOperation s (.op w) rest _ hinput hdecode).trans
    (exec_reserved _ (decodedWordsEncodeBack s.decodeCtx (.op w) _ hdecode).2)

theorem decodeOp_reserved (n : Nat) (h : w >>> 20 = 0x0#24 ∨ w >>> 20 = 0xD#24 ∨ w >>> 20 = 0xE#24 ∨ w >>> 20 = 0xF#24) :
    decodeOp n w = .ok (.reserved (opField w) (restField w)) := by
  rcases h with h | h | h | h <;> simp [decodeOp, ← toNat_shiftRight_20, h]

end

/-- Settles O6: the decoder hands the word on as a reserved operation, which spells that word again. -/
theorem reservedOpcodesAreRefused : Obligations.ReservedOpcodesAreRefused :=
  ⟨fun s _ _ hinput hop => step_reserved hinput (decodeOp_reserved s.nSlots hop), fun s _ _ => exec_reserved s rfl⟩

/-! ### Reserved bits (R108, R112) -/

section
variable {w mask value : OpWord} {n : Nat}

/-- A word of a row of the opcode table has the row's opcode. -/
theorem opField_of_row (hrow : w &&& mask = value) (hmask : opField mask = 0xF#4) : opField w = opField value := by
  have hand : opField (w &&& mask) = opField w &&& opField mask := BitVec.extractLsb'_and
  rw [← hrow, hand, hmask]
  exact BitVec.and_allOnes.symm

/-- A word of a row whose mask covers the opcode's reserved bits, none of which the row sets, has none of them set. -/
theorem and_reservedBits_of_row (hrow : w &&& mask = value) (hmask : opField mask = 0xF#4)
    (hreserved : reservedBits n (opField value).toNat = mask &&& 0x0FFFFF#24) (hvalue : value &&& 0x0FFFFF#24 = 0#24) :
    w &&& reservedBits n (opField w).toNat = 0#24 := by
  rw [opField_of_row hrow hmask, hreserved, ← BitVec.and_assoc, hrow, hvalue]

/-- The reserved bits of PINS are those from N_SLOTS up to the opcode. -/
theorem getLsbD_reservedBits_pins (hn : n ≤ 16) {k : Nat} (hk : k < 24) :
    (reservedBits n 0xB).getLsbD k = (decide (k < 20) && !decide (k < n)) := by
  have hpow : 2 ^ n - 1 < 2 ^ 20 := (Nat.sub_le _ _).trans_lt (Nat.pow_lt_pow_right (by decide) (by omega))
  have hmask : 0x100000 - 2 ^ n = 2 ^ 20 - (2 ^ n - 1 + 1) := by
    rw [Nat.sub_add_cancel Nat.one_le_two_pow]
    rfl
  show (BitVec.ofNat 24 (0x100000 - 2 ^ n)).getLsbD k = _
  rw [hmask, BitVec.getLsbD_ofNat, Nat.testBit_two_pow_sub_succ hpow, Nat.testBit_two_pow_sub_one]
  simp [hk]

/-- A PINS word with levels below N_SLOTS has no reserved bit set. -/
theorem and_reservedBits_pins (hn : n ≤ 16) (hzero : w.extractLsb' 16 4 = 0#4) (hlevels : (immField w).toNat < 2 ^ n) :
    w &&& reservedBits n 0xB = 0#24 := by
  refine BitVec.eq_of_getLsbD_eq fun k hk => ?_
  rw [BitVec.getLsbD_and, getLsbD_reservedBits_pins hn hk, BitVec.getLsbD_zero]
  by_cases hslot : k < n
  · simp [hslot]
  by_cases himm : k < 16
  · have hbit : (immField w).getLsbD k = false := getLsbD_of_toNat_lt hlevels k (Nat.not_lt.mp hslot)
    have hw : w.getLsbD k = false := by simpa [immField, himm] using hbit
    simp [hw]
  by_cases hop : k < 20
  · have hbit := congrArg (·.getLsbD (k - 16)) hzero
    have hlt : k - 16 < 4 := by omega
    have hw : w.getLsbD k = false := by simpa [hlt, Nat.add_sub_cancel' (Nat.not_lt.mp himm)] using hbit
    simp [hw]
  · simp [hop]

/-- A word that decodes has no reserved bit set. -/
theorem and_reservedBits_of_decodeOp {c : DecodeCtx} {i : Instr} (hn : c.nSlots ≤ 16)
    (h : decodeOp c.nSlots w = .ok i) : w &&& reservedBits c.nSlots (opField w).toNat = 0#24 := by
  obtain ⟨hwf, hspells⟩ := spells_of_decodeOp h
  have hrow : Laws.TableMatch.Statement i → Laws.TableMatch.fits (.op w) (Laws.TableMatch.row i) := fun hfits =>
    encode_eq_op_iff.mpr hspells ▸ hfits
  cases i with
  | push b => exact and_reservedBits_of_row (hrow (Laws.TableMatch.push b)) rfl rfl rfl
  | pop => exact and_reservedBits_of_row (hrow Laws.TableMatch.pop) rfl rfl rfl
  | avail => exact and_reservedBits_of_row (hrow Laws.TableMatch.avail) rfl rfl rfl
  | parse b => exact and_reservedBits_of_row (hrow (Laws.TableMatch.parse b)) rfl rfl rfl
  | poll slot => exact and_reservedBits_of_row (hrow (Laws.TableMatch.poll slot)) rfl rfl rfl
  | set slot on => exact and_reservedBits_of_row (hrow (Laws.TableMatch.set slot on)) rfl rfl rfl
  | onmidi cc val => exact and_reservedBits_of_row (hrow (Laws.TableMatch.onmidi cc val)) rfl rfl rfl
  | onswitch slot on => exact and_reservedBits_of_row (hrow (Laws.TableMatch.onswitch slot on)) rfl rfl rfl
  | step => exact and_reservedBits_of_row (hrow Laws.TableMatch.step) rfl rfl rfl
  | tick n => exact and_reservedBits_of_row (hrow (Laws.TableMatch.tick n)) rfl rfl rfl
  | pins v =>
    obtain ⟨hop, hzero, rfl⟩ := hspells
    rw [hop]
    exact and_reservedBits_pins hn hzero (of_decide_eq_true hwf)
  | reset ch => exact and_reservedBits_of_row (hrow (Laws.TableMatch.reset ch)) rfl rfl rfl
  | reserved op rest =>
    obtain ⟨rfl, -⟩ := hspells
    have hnone : reservedBits c.nSlots (opField w).toNat = 0#24 := by
      simp only [Instr.wellFormed, Bool.or_eq_true, decide_eq_true_eq, or_assoc] at hwf
      rcases hwf with hop | hop | hop | hop <;> rw [hop] <;> rfl
    rw [hnone, BitVec.and_zero]
  | midiCcsMatch | midiS0Ignore | midiS1Data | midiS1Status | midiS2Data | midiS2Status => exact hspells.elim

end

section
variable {s : State} {w : OpWord} {rest : List Input}

theorem step_reservedBits (hinput : s.input = .code (.op w) :: rest)
    (hdecode : decodeOp s.nSlots w = .error (.reservedBits w)) :
    step s = .next (recorded (.refusedEncoding w) { s with input := rest }) := by
  have hctx : decodeCode (State.decodeCtx { s with input := rest }) (.op w) = .error (.reservedBits w) := hdecode
  simp only [step, fetch_code hinput, hctx, reject, raise_eq_recorded]

/-- A word is one of the twelve operations, a reserved one, or refused for its bits. -/
theorem step_operation_or_refused (hinput : s.input = .code (.op w) :: rest) :
    (∃ i, decodeOp s.nSlots w = .ok i ∧ (∀ o r, i ≠ .reserved o r) ∧ ∀ b, encode i ≠ .midi b) ∨
      step s = .next (recorded (.refusedEncoding w) { s with input := rest }) := by
  rcases decodeOp_ok_or_reservedBits s.nSlots w with ⟨i, hdecode⟩ | hdecode
  · by_cases hreserved : ∃ o r, i = .reserved o r
    · obtain ⟨o, r, rfl⟩ := hreserved
      exact .inr (step_reserved hinput hdecode)
    · have hcode : encode i = .op w := (decodedWordsEncodeBack s.decodeCtx (.op w) i hdecode).2
      exact .inl ⟨i, hdecode, fun o r hi => hreserved ⟨o, r, hi⟩, fun b hb => by cases hcode.symm.trans hb⟩
  · exact .inr (step_reservedBits hinput hdecode)

end

/-- Settles O7: a word that decodes fits its row of the opcode table, whose mask covers the reserved bits. -/
theorem reservedBitsAreRefused : Obligations.ReservedBitsAreRefused := by
  refine ⟨fun s w rest hinput hn hbits => ?_, fun s w rest => step_operation_or_refused⟩
  rcases decodeOp_ok_or_reservedBits s.nSlots w with ⟨i, hdecode⟩ | hdecode
  · have hnone := and_reservedBits_of_decodeOp (c := s.decodeCtx) hn hdecode
    rw [← toNat_shiftRight_20] at hnone
    exact absurd hnone hbits
  · exact step_reservedBits hinput hdecode

end Sys2Proof.Proofs
end

section
/-! PROOFS. The byte classes as operations (R105, R211-R216; log 12), and the slot operand that names no slot (R113). -/

namespace Sys2Proof.Proofs

open Sys2Proof Sys2Proof.Machine Sys2Proof.Spec

section
variable {s : State} {b : Byte}

/-! ### The parser's transition, one equation per class -/

theorem parserByte_match (hp : s.pstate = pstateS0) (hb : b = ccStatus s.chanBits) : parserByte b s = parseMatch s := by
  rw [parserByte, if_pos hp, if_pos hb]

theorem parserByte_ignore (hp : s.pstate = pstateS0) (hb : b ≠ ccStatus s.chanBits) : parserByte b s = parseIgnore s := by
  rw [parserByte, if_pos hp, if_neg hb]

theorem parserByte_s1_data (hp : s.pstate = pstateS1) (hb : isStatus b = false) :
    parserByte b s = parseNumber (low7 b) s := by
  simp [parserByte, hp, hb]

theorem parserByte_s1_status (hp : s.pstate = pstateS1) (hb : isStatus b = true) : parserByte b s = parseAbortNumber s := by
  simp [parserByte, hp, hb]

theorem parserByte_s2_data (hp : s.pstate = pstateS2) (hb : isStatus b = false) :
    parserByte b s = parseValue (low7 b) s := by
  simp [parserByte, hp, hb]

theorem parserByte_s2_status (hp : s.pstate = pstateS2) (hb : isStatus b = true) : parserByte b s = parseAbortValue s := by
  simp [parserByte, hp, hb]

/-- In a parser state a byte takes its transition (R210). -/
theorem consumeByte_of_parserByte {p : BitVec 2} {t : State} (hp : s.pstate = p) (hlegal : p ≠ pstateIllegal)
    (hbyte : parserByte b s = t) : consumeByte b s = .next (done t) := by
  rw [consumeByte, if_neg (hp ▸ hlegal), hbyte]

end

/-- Settles O21: in each parser state the byte of a class takes the class's arm of the parser. -/
theorem byteClassesTakeTheirTransitions : Obligations.ByteClassesTakeTheirTransitions := by
  refine ⟨fun ch s hp hch => ?_, fun b s hp hb => ?_, fun d s hp => ?_, fun d s hp => ?_, fun d s hp => ?_, fun d s hp => ?_⟩
  · exact consumeByte_of_parserByte hp (by decide) (parserByte_match hp (congrArg ccStatus hch))
  · exact consumeByte_of_parserByte hp (by decide) (parserByte_ignore hp hb)
  · have hbyte : parserByte (dataByte d) s = parseNumber d s := by
      rw [parserByte_s1_data hp (isStatus_dataByte d), low7_dataByte]
    exact consumeByte_of_parserByte hp (by decide) hbyte
  · exact consumeByte_of_parserByte hp (by decide) (parserByte_s1_status hp (isStatus_statusByte d))
  · have hbyte : parserByte (dataByte d) s = parseValue d s := by
      rw [parserByte_s2_data hp (isStatus_dataByte d), low7_dataByte]
    exact ⟨done (onMidi s.pending d s), rfl, consumeByte_of_parserByte hp (by decide) hbyte⟩
  · exact consumeByte_of_parserByte hp (by decide) (parserByte_s2_status hp (isStatus_statusByte d))

/-- Settles O22: a class and PARSE hand the same byte to the parser. -/
theorem byteClassActsAsParseOfItsByte : Obligations.ByteClassActsAsParseOfItsByte := by
  intro i b s h
  cases i with
  | midiCcsMatch | midiS0Ignore | midiS1Data | midiS1Status | midiS2Data | midiS2Status =>
    cases h
    rfl
  | push | pop | avail | parse | poll | set | onmidi | onswitch | step | tick | pins | reset | reserved => cases h

/-- Settles O28: each of the three asks for the slot first. -/
theorem slotOutOfRangeRaisesBadSlot : Obligations.SlotOutOfRangeRaisesBadSlot := by
  intro slot on s hslot
  have hno : ¬ slot.toNat < s.nSlots := Nat.not_lt.mpr hslot
  exact ⟨if_neg hno, if_neg hno, if_neg hno⟩

end Sys2Proof.Proofs
end

section
/-! PROOFS. PASS_IDLE: one whole pass of the control loop over released switches and an empty buffer (R116, R260, R262). -/

namespace Sys2Proof.Proofs

open Sys2Proof Sys2Proof.Machine Sys2Proof.Spec

/-- Nothing is there to be done: every switch released, the momentary baseline false, no byte waiting. -/
structure Idle (s : State) : Prop where
  empty : s.count = 0
  baseline : MomentaryOk s
  released : ∀ m, m < s.nSlots → s.pins.getLsbD m = true

section
variable {s : State} {rest : List Input}

/-- A sample of a released switch finds nothing new: no slot reads pressed, and a momentary baseline is false (R135, R139). -/
theorem sampleStep_idle (h : Idle s) (hslot : s.seqSlot.toNat < s.nSlots) : sampleStep s = advance s := by
  have hreleased : rawPressed s.pins s.seqSlot.toNat = false := by
    rw [rawPressed, h.released _ hslot]
    rfl
  cases hmom : isMomentary s.params s.seqSlot.toNat
  · simp [sampleStep, hmom, latchingSample, hreleased]
  · simp [sampleStep, hmom, momentarySample, excl, hreleased, h.baseline _ hslot hmom]

theorem execStep_idle_before_last (h : Idle s) (hphase : s.phase = .sample) (hslot : s.seqSlot.toNat < s.nSlots - 1) :
    execStep s = .next (done { s with seqSlot := s.seqSlot + 1#4, phase := .sample }) := by
  have hlt : s.seqSlot.toNat < s.nSlots := hslot.trans_le (Nat.sub_le _ _)
  rw [execStep_sample hphase, onSeqSlot, if_pos hlt, sampleStep_idle h hlt, advance, if_pos hslot]

theorem execStep_idle_at_last (h : Idle s) (hphase : s.phase = .sample) (hslot : s.seqSlot.toNat + 1 = s.nSlots) :
    execStep s = .next (done { s with phase := .midi }) := by
  have hlt : s.seqSlot.toNat < s.nSlots := Nat.lt_of_succ_le hslot.le
  have hlast : ¬ s.seqSlot.toNat < s.nSlots - 1 := by omega
  rw [execStep_sample hphase, onSeqSlot, if_pos hlt, sampleStep_idle h hlt, advance, if_neg hlast]

theorem execStep_idle_midi (h : Idle s) (hphase : s.phase = .midi) : execStep s = .next (done (nextPass s)) := by
  rw [execStep_midi hphase, midiStep_empty h.empty]

/-- The events of PASS_IDLE run STEP. -/
theorem step_of_stepEvent {t : State} (hinput : s.input = .code (encode .step) :: rest)
    (hexec : execStep { s with input := rest } = .next t) : step s = .next t :=
  (stepRunsTheDecodedOperation s _ rest .step hinput (decodeOp_wordStep s.nSlots)).trans hexec

end

/-- The rest of an idle pass from a slot with `k` slots after it: each STEP but the last two moves to the next slot, and those
two go through the MIDI phase to slot 0. -/
theorem run_idle_pass (k : Nat) : ∀ s : State, Idle s → s.nSlots ≤ 16 → s.phase = .sample →
    s.seqSlot.toNat + k + 1 = s.nSlots → s.input = List.replicate (k + 2) (.code (encode .step)) →
    Sys2Proof.core.run (k + 2) s = .next { s with seqSlot := 0#4, phase := .sample, input := [], result := .done } := by
  induction k with
  | zero =>
    intro s h _ hphase hlast hinput
    have hfirst := step_of_stepEvent hinput (execStep_idle_at_last { h with } hphase hlast)
    have hsecond := execStep_idle_midi (s := done { s with phase := .midi, input := [] }) { h with } rfl
    exact run_two hfirst (step_of_stepEvent rfl hsecond)
  | succ k ih =>
    intro s h hle hphase hlast hinput
    have hslot : s.seqSlot.toNat < s.nSlots - 1 := by omega
    have hnext : (s.seqSlot + 1#4).toNat = s.seqSlot.toNat + 1 := by
      rw [BitVec.toNat_add, show (1#4).toNat = 1 from rfl]
      omega
    have hafter : (s.seqSlot + 1#4).toNat + k + 1 = s.nSlots := by omega
    have hstep := step_of_stepEvent hinput (execStep_idle_before_last { h with } hphase hslot)
    exact (run_succ hstep (k + 2)).trans (ih _ { h with } hle rfl hafter rfl)

/-- Settles O44: the pass from slot 0 has every other slot after it. -/
theorem idlePassReturnsToSlotZero : Obligations.IdlePassReturnsToSlotZero := by
  intro s hpos hle hphase hslot hcount hbase hreleased hinput
  obtain ⟨k, hk⟩ := Nat.exists_eq_add_of_le' hpos
  have hqueue : s.input = List.replicate (k + 2) (.code (encode .step)) := by
    rw [hinput, pseudoPassIdle, List.map_replicate, hk]
  have hafter : s.seqSlot.toNat + k + 1 = s.nSlots := by
    rw [hslot, show (0#4).toNat = 0 from rfl]
    omega
  rw [hk, run_idle_pass k s ⟨hcount, hbase, hreleased⟩ hle hphase hafter hqueue, ← hslot, ← hphase]

end Sys2Proof.Proofs
end

section
/-! PROOFS. The Switch Debounce Engine: exclusivity (R131, R132), POLL (R142), the confirm steps (R136, R140), and POLL against
the sequencer's sample, window and confirm. -/

namespace Sys2Proof.Proofs

open Sys2Proof Sys2Proof.Machine Sys2Proof.Spec

/-! ### Exclusivity (R131, R132) -/

/-- CfgRead gives zero beyond the table, so only a slot that exists is momentary. -/
theorem lt_nSlots_of_isMomentary {p : Params} {k : Nat} (hmom : isMomentary p k = true) : k < p.nSlots := by
  by_contra hge
  have hzero : cfgRead p k = 0#32 := List.getD_eq_default _ _ (Nat.le_of_not_lt hge)
  simp [isMomentary, hzero] at hmom

theorem momentaryPressed_iff {p : Params} {snap : SlotBits} {k : Nat} :
    MomentaryPressed p snap k ↔ (isMomentary p k && rawPressed snap k) = true := by
  simp only [MomentaryPressed, rawPressed, Bool.and_eq_true, Bool.not_eq_true']
  exact and_iff_right_of_imp fun h => lt_nSlots_of_isMomentary h.1

theorem momentaryPressedCount_eq_one_iff {p : Params} {snap : SlotBits} :
    momentaryPressedCount p snap = 1 ↔ ∃ k, MomentaryPressed p snap k ∧ ∀ j, MomentaryPressed p snap j → j = k := by
  have hcard : momentaryPressedCount p snap =
      ((Finset.range p.nSlots).filter fun m => (isMomentary p m && rawPressed snap m) = true).card := by
    rw [← Nat.count_eq_card_filter_range, Nat.count, momentaryPressedCount]
    simp only [Bool.decide_eq_true]
  have hmem : ∀ m, m ∈ ((Finset.range p.nSlots).filter fun m => (isMomentary p m && rawPressed snap m) = true) ↔
      MomentaryPressed p snap m := fun m => by
    rw [Finset.mem_filter, Finset.mem_range, ← momentaryPressed_iff, and_iff_right_of_imp fun h => h.1]
  simp only [hcard, Finset.card_eq_one, Finset.eq_singleton_iff_unique_mem, hmem]

/-- A slot reads pressed exactly when it is the one momentary slot pressed. -/
theorem excl_eq_true_iff {p : Params} {snap : SlotBits} {k : Nat} :
    excl p snap k = true ↔ MomentaryPressed p snap k ∧ ∀ j, MomentaryPressed p snap j → j = k := by
  rw [excl, Bool.and_eq_true, ← momentaryPressed_iff, beq_iff_eq, momentaryPressedCount_eq_one_iff]
  refine and_congr_right fun hk => ⟨fun ⟨m, _, honly⟩ j hj => ?_, fun honly => ⟨k, hk, honly⟩⟩
  exact (honly j hj).trans (honly k hk).symm

/-- Settles O29: the slot that reads pressed is the only momentary slot pressed. -/
theorem exclusivityOnASnapshot : Obligations.ExclusivityOnASnapshot := by
  refine fun p snap => ⟨fun a b hne ha hb k => ?_, fun m hm honly => ⟨excl_eq_true_iff.mpr ⟨hm, honly⟩, fun k hk => ?_⟩⟩
  · refine Bool.eq_false_iff.mpr fun hexcl => ?_
    obtain ⟨_, honly⟩ := excl_eq_true_iff.mp hexcl
    exact hne ((honly a ha).trans (honly b hb).symm)
  · refine Bool.eq_false_iff.mpr fun hexcl => ?_
    obtain ⟨hpressed, _⟩ := excl_eq_true_iff.mp hexcl
    exact hk (honly k hpressed)

/-! ### The model's updates in the words of the statements -/

theorem bitReplaced_putBit (k : Nat) (b : Bool) (v : SlotBits) : BitReplaced k b v (putBit v k b) := by
  intro m hm
  rw [getLsbD_putBit]
  simp [hm]

theorem indAfterSet_driven (p : Params) (k : Nat) (on : Bool) (ind : SlotBits) :
    IndAfterSet p k on ind (driven p ind ⟨k, on⟩) := by
  intro m hm
  rw [getLsbD_driven]
  simp only [hm, decide_true, Bool.true_and, Bool.and_eq_true, decide_eq_true_eq, and_assoc]

theorem done_advance (s : State) : done (advance s) = advanced s := by
  have hnext : BitVec.ofNat 4 (s.seqSlot.toNat + 1) = s.seqSlot + 1#4 := by simp [BitVec.ofNat_add]
  rcases advance_eq s with ⟨hslot, heq⟩ | ⟨hslot, heq⟩
  · rw [heq, advanced, if_pos hslot, hnext]
    rfl
  · rw [heq, advanced, if_neg hslot]
    rfl

/-! ### The three computations on a slot, one equation per case -/

section
variable {s : State} {k : Nat}

theorem pollSlot_momentary_same (hmom : isMomentary s.params k = true)
    (hsame : excl s.params s.pins k = s.isOn.getLsbD k) : pollSlot k s = s := by
  simp [pollSlot, hmom, hsame]

theorem pollSlot_momentary_differs (hmom : isMomentary s.params k = true)
    (hdiffers : excl s.params s.pins k ≠ s.isOn.getLsbD k) :
    pollSlot k s =
      { s with isOn := putBit s.isOn k (!excl s.params s.pins k), trace := s.trace ++ [⟨k, true⟩],
               ind := driven s.params s.ind ⟨k, true⟩ } := by
  rw [pollSlot, if_pos hmom, if_pos hdiffers, momentaryConfirm_differs k s.pins s hdiffers]

theorem pollSlot_latching_released (hmom : isMomentary s.params k = false) (hreleased : s.pins.getLsbD k = true) :
    pollSlot k s = s := by
  simp [pollSlot, hmom, rawPressed, hreleased]

theorem flipSuppressed_iff {snap : SlotBits} :
    flipSuppressed k snap s = true ↔ s.params.latchRequireConfirm = true ∧ snap.getLsbD k = true := by
  simp [flipSuppressed, rawPressed]

/-- A switch that still reads pressed always flips (R140). -/
theorem flipSuppressed_pressed (hpressed : s.pins.getLsbD k = false) : ¬ flipSuppressed k s.pins s = true := by
  simp [flipSuppressed_iff, hpressed]

theorem pollSlot_latching_pressed (hmom : isMomentary s.params k = false) (hpressed : s.pins.getLsbD k = false) :
    pollSlot k s =
      { s with isOn := putBit s.isOn k (!s.isOn.getLsbD k), trace := s.trace ++ [⟨k, !s.isOn.getLsbD k⟩],
               ind := driven s.params s.ind ⟨k, !s.isOn.getLsbD k⟩ } := by
  rw [← latchingFlip_eq k s]
  simp [pollSlot, hmom, rawPressed, hpressed, latchingConfirm, flipSuppressed_pressed hpressed]

end

section
variable {s : State}

theorem sampleStep_momentary_same (hmom : isMomentary s.params s.seqSlot.toNat = true)
    (hsame : excl s.params s.pins s.seqSlot.toNat = s.isOn.getLsbD s.seqSlot.toNat) : sampleStep s = advance s := by
  simp [sampleStep, momentarySample, hmom, hsame]

theorem sampleStep_momentary_differs (hmom : isMomentary s.params s.seqSlot.toNat = true)
    (hdiffers : excl s.params s.pins s.seqSlot.toNat ≠ s.isOn.getLsbD s.seqSlot.toNat) :
    sampleStep s = enterWait .debounce s.params.tDb s := by
  rw [sampleStep, if_pos hmom, momentarySample, if_pos hdiffers]

theorem sampleStep_latching_released (hmom : isMomentary s.params s.seqSlot.toNat = false)
    (hreleased : s.pins.getLsbD s.seqSlot.toNat = true) : sampleStep s = advance s := by
  simp [sampleStep, latchingSample, hmom, rawPressed, hreleased]

theorem sampleStep_latching_pressed (hmom : isMomentary s.params s.seqSlot.toNat = false)
    (hpressed : s.pins.getLsbD s.seqSlot.toNat = false) : sampleStep s = enterWait .debounce s.params.tDb s := by
  simp [sampleStep, latchingSample, hmom, rawPressed, hpressed]

theorem confirmStep_momentary_same (hmom : isMomentary s.params s.seqSlot.toNat = true)
    (hsame : excl s.params s.pins s.seqSlot.toNat = s.isOn.getLsbD s.seqSlot.toNat) : confirmStep s = advance s := by
  simp [confirmStep, hmom, momentaryConfirm_same _ _ _ hsame]

theorem confirmStep_momentary_differs (hmom : isMomentary s.params s.seqSlot.toNat = true)
    (hdiffers : excl s.params s.pins s.seqSlot.toNat ≠ s.isOn.getLsbD s.seqSlot.toNat) :
    confirmStep s = advance { s with
      isOn := putBit s.isOn s.seqSlot.toNat (!excl s.params s.pins s.seqSlot.toNat),
      trace := s.trace ++ [⟨s.seqSlot.toNat, true⟩], ind := driven s.params s.ind ⟨s.seqSlot.toNat, true⟩ } := by
  simp [confirmStep, hmom, momentaryConfirm_differs _ _ _ hdiffers]

theorem confirmStep_latching_suppressed (hmom : isMomentary s.params s.seqSlot.toNat = false)
    (hsuppressed : flipSuppressed s.seqSlot.toNat s.pins s = true) : confirmStep s = advance s := by
  simp [confirmStep, hmom, hsuppressed]

theorem confirmStep_latching_flips (hmom : isMomentary s.params s.seqSlot.toNat = false)
    (hflips : ¬ flipSuppressed s.seqSlot.toNat s.pins s = true) :
    confirmStep s = { s with
      isOn := putBit s.isOn s.seqSlot.toNat (!s.isOn.getLsbD s.seqSlot.toNat),
      trace := s.trace ++ [⟨s.seqSlot.toNat, !s.isOn.getLsbD s.seqSlot.toNat⟩],
      ind := driven s.params s.ind ⟨s.seqSlot.toNat, !s.isOn.getLsbD s.seqSlot.toNat⟩,
      waitCtr := s.params.tHo, phase := .holdoff } := by
  simp [confirmStep, hmom, hflips, latchingFlip_eq, enterWait]

end

/-! ### POLL -/

section
variable {s : State}

theorem exec_poll {slot : SlotIdx} (hslot : slot.toNat < s.nSlots) :
    exec (.poll slot) s = .next (done (pollSlot slot.toNat s)) := if_pos hslot

theorem exec_poll_unchanged {slot : SlotIdx} (hslot : slot.toNat < s.nSlots) (hsame : pollSlot slot.toNat s = s) :
    exec (.poll slot) s = .next { s with result := .done } := by
  rw [exec_poll hslot, hsame]
  rfl

end

/-- Settles O30: the switch type and the reading pick the case of the poll. -/
theorem pollRunsOneWholePoll : Obligations.PollRunsOneWholePoll := by
  refine fun slot s => ⟨fun hslot hmom => ⟨fun hdiffers => ?_, fun hsame => ?_⟩,
    fun hslot hmom => ⟨fun hpressed => ?_, fun hreleased => ?_⟩, fun hslot => ?_⟩
  · refine ⟨_, _, bitReplaced_putBit _ _ _, indAfterSet_driven _ _ _ _, ?_⟩
    rw [exec_poll hslot, pollSlot_momentary_differs hmom hdiffers]
    rfl
  · exact exec_poll_unchanged hslot (pollSlot_momentary_same hmom hsame)
  · refine ⟨_, _, bitReplaced_putBit _ _ _, indAfterSet_driven _ _ _ _, ?_⟩
    rw [exec_poll hslot, pollSlot_latching_pressed hmom hpressed]
    rfl
  · exact exec_poll_unchanged hslot (pollSlot_latching_released hmom hreleased)
  · exact if_neg (Nat.not_lt.mpr hslot)

/-! ### The sequencer's two steps on a slot -/

section
variable {s : State}

theorem onSeqSlot_slot (f : State → State) (hslot : s.seqSlot.toNat < s.nSlots) : onSeqSlot f s = .next (done (f s)) :=
  if_pos hslot

theorem exec_step_sample (hphase : s.phase = .sample) (hslot : s.seqSlot.toNat < s.nSlots) :
    exec .step s = .next (done (sampleStep s)) :=
  (execStep_sample hphase).trans (onSeqSlot_slot sampleStep hslot)

theorem exec_step_confirm (hphase : s.phase = .debounce) (hwait : s.waitCtr = 0) (hslot : s.seqSlot.toNat < s.nSlots) :
    exec .step s = .next (done (confirmStep s)) :=
  (execStep_debounce hphase hwait).trans (onSeqSlot_slot confirmStep hslot)

end

/-- Settles O32: the momentary confirm, then `advance()`. -/
theorem stepConfirmsMomentary : Obligations.StepConfirmsMomentary := by
  intro s hphase hwait hslot hmom
  rw [exec_step_confirm hphase hwait hslot]
  refine ⟨fun hsame => ?_, fun hdiffers => ⟨_, _, bitReplaced_putBit _ _ _, indAfterSet_driven _ _ _ _, ?_⟩⟩
  · rw [confirmStep_momentary_same hmom hsame, done_advance]
  · rw [confirmStep_momentary_differs hmom hdiffers, done_advance]

/-- Settles O33: a suppressed flip only advances, a flip begins the hold-off. -/
theorem stepConfirmsLatching : Obligations.StepConfirmsLatching := by
  intro s hphase hwait hslot hmom
  rw [exec_step_confirm hphase hwait hslot]
  refine ⟨fun hsuppressed => ?_, fun hflips => ⟨_, _, bitReplaced_putBit _ _ _, indAfterSet_driven _ _ _ _, ?_⟩⟩
  · rw [confirmStep_latching_suppressed hmom (flipSuppressed_iff.mpr hsuppressed), done_advance]
  · rw [confirmStep_latching_flips hmom (flipSuppressed_iff.not.mpr hflips)]
    rfl

/-! ### POLL against the sequencer (R142) -/

/-- The two states agree on what a poll of a slot writes. -/
def SameSwitch (t u : State) : Prop := t.isOn = u.isOn ∧ t.ind = u.ind ∧ t.trace = u.trace

theorem sameSwitch_advance (s : State) : SameSwitch (advance s) s := by
  obtain ⟨q, ph, heq⟩ := advance_effect s
  rw [heq]
  exact ⟨rfl, rfl, rfl⟩

theorem advance_phase_ne_debounce (s : State) : (advance s).phase ≠ .debounce := by
  rcases advance_eq s with ⟨_, heq⟩ | ⟨_, heq⟩ <;> simp [heq]

/-- The state at the end of the window that `s` entered, the levels held. -/
def windowEnd (s : State) : State := { s with phase := .debounce, waitCtr := 0, result := .done }

/-- T_DB ticks use up the window (R51, R266). -/
theorem exec_tick_window (s : State) (hfits : s.params.tDb < 2 ^ 16) :
    exec (.tick (BitVec.ofNat 16 s.params.tDb)) (done (enterWait .debounce s.params.tDb s)) = .next (windowEnd s) := by
  have hticks : (BitVec.ofNat 16 s.params.tDb).toNat = s.params.tDb := Nat.mod_eq_of_lt hfits
  change Host.Outcome.next (done (passTicks (BitVec.ofNat 16 s.params.tDb).toNat _)) = _
  simp [hticks, passTicks, Phase.isWait, windowEnd, done, enterWait]

/-- The sample step and POLL decide alike whether the reading calls for a window, and the confirm at its end does what POLL does
at once (R135, R136, R139, R140). -/
theorem sampleStep_pollSlot (s : State) :
    (sampleStep s = advance s ∧ pollSlot s.seqSlot.toNat s = s) ∨
    (sampleStep s = enterWait .debounce s.params.tDb s ∧
      SameSwitch (confirmStep (windowEnd s)) (pollSlot s.seqSlot.toNat s)) := by
  cases hmom : isMomentary s.params s.seqSlot.toNat
  case true =>
    by_cases hsame : excl s.params s.pins s.seqSlot.toNat = s.isOn.getLsbD s.seqSlot.toNat
    · exact .inl ⟨sampleStep_momentary_same hmom hsame, pollSlot_momentary_same hmom hsame⟩
    · refine .inr ⟨sampleStep_momentary_differs hmom hsame, ?_⟩
      rw [confirmStep_momentary_differs (s := windowEnd s) hmom hsame, pollSlot_momentary_differs hmom hsame]
      exact sameSwitch_advance _
  case false =>
    cases hlevel : s.pins.getLsbD s.seqSlot.toNat
    case true => exact .inl ⟨sampleStep_latching_released hmom hlevel, pollSlot_latching_released hmom hlevel⟩
    case false =>
      refine .inr ⟨sampleStep_latching_pressed hmom hlevel, ?_⟩
      rw [confirmStep_latching_flips (s := windowEnd s) hmom (flipSuppressed_pressed hlevel),
        pollSlot_latching_pressed hmom hlevel]
      exact ⟨rfl, rfl, rfl⟩

/-- Settles O34: without a window neither changes anything, and with one the ticks reach the confirm that agrees with POLL. -/
theorem pollAgreesWithTheSequencer : Obligations.PollAgreesWithTheSequencer := by
  intro s hphase hslot hfits
  refine ⟨_, _, exec_poll hslot, exec_step_sample hphase hslot, ?_⟩
  rcases sampleStep_pollSlot s with ⟨hsample, hpoll⟩ | ⟨hsample, hswitch⟩
  · rw [hsample, hpoll]
    exact ⟨fun _ => ⟨rfl, rfl, rfl⟩, fun hwindow => absurd hwindow (advance_phase_ne_debounce s)⟩
  · rw [hsample]
    exact ⟨fun hnone => absurd rfl hnone,
      fun _ => ⟨_, _, exec_tick_window s hfits, exec_step_confirm (s := windowEnd s) rfl rfl hslot, hswitch⟩⟩

end Sys2Proof.Proofs
end

section
/-! PROOFS. The Output Driver: SET (R160-R163), its invariant through every step (R165, R35), and how a lit momentary indicator goes
dark (R166). -/

namespace Sys2Proof.Proofs

open Sys2Proof Sys2Proof.Machine Sys2Proof.Spec

/-! ### SET -/

/-- Settles O26: a slot that exists has its call driven, and the guard records any other. -/
theorem setDrivesTheIndicators : Obligations.SetDrivesTheIndicators := fun _ on _ =>
  ⟨fun hslot => ⟨_, indAfterSet_driven _ _ _ _, execSet_slot on hslot⟩, fun hslot => if_neg (Nat.not_lt.mpr hslot)⟩

/-! ### What one call does to one indicator -/

section
variable {p : Params} {ind : SlotBits} {c : SetCall} {k : Nat}

/-- An indicator lit after a call was lit before, or the call turned it on. -/
theorem lit_of_lit_driven (hlit : (driven p ind c).getLsbD k = true) :
    ind.getLsbD k = true ∨ (k = c.slot ∧ c.on = true ∧ hasIndicator p c.slot = true) := by
  simp only [getLsbD_driven, Bool.and_eq_true] at hlit
  obtain ⟨-, hlit⟩ := hlit
  split at hlit
  · exact .inl hlit
  · rename_i hindicator
    split at hlit
    · exact .inr ⟨‹k = c.slot›, hlit, by simpa using hindicator⟩
    · split at hlit
      · cases hlit
      · exact .inl hlit

/-- An indicator goes dark because its slot was turned off, or in the cleanup for a momentary slot turned on (R161, R163, R166). -/
theorem off_or_cleanup_of_dark_driven (hlit : ind.getLsbD k = true) (hdark : (driven p ind c).getLsbD k = false) :
    (c.slot = k ∧ c.on = false) ∨
      (c.slot ≠ k ∧ c.on = true ∧ isMomentary p c.slot = true ∧ hasIndicator p c.slot = true) := by
  have h16 : k < 16 := BitVec.lt_of_getLsbD hlit
  simp only [getLsbD_driven, h16, decide_true, Bool.true_and] at hdark
  split at hdark
  · simp [hlit] at hdark
  · rename_i hindicator
    split at hdark
    · exact .inl ⟨‹k = c.slot›.symm, hdark⟩
    · rename_i hne
      split at hdark
      · rename_i hcleanup
        simp only [Bool.and_eq_true] at hcleanup
        obtain ⟨⟨⟨⟨hon, hmom⟩, -⟩, -⟩, -⟩ := hcleanup
        exact .inr ⟨Ne.symm hne, hon, hmom, by simpa using hindicator⟩
      · simp [hlit] at hdark

/-- The cleanup (R161): a momentary slot turned on leaves every other momentary indicator dark. -/
theorem dark_of_momentary_on (hon : c.on = true) (hcmom : isMomentary p c.slot = true)
    (hcind : hasIndicator p c.slot = true) (hne : k ≠ c.slot) (hmom : isMomentary p k = true)
    (hindicator : hasIndicator p k = true) : (driven p ind c).getLsbD k = false := by
  simp [getLsbD_driven, hon, hcmom, hcind, hne, hmom, hindicator, lt_nSlots_of_isMomentary hmom]

end

/-! ### The invariant (R165, R35) -/

section
variable {s t : State}

theorem driverOk_of_sameInd (h : DriverOk s) (hparams : t.params = s.params) (hind : t.ind = s.ind) : DriverOk t := by
  obtain ⟨hone, hnone⟩ := h
  constructor <;> simpa only [State.nSlots, hparams, hind]

/-- The slot a call turns on is, if momentary, the one momentary slot lit after it. -/
theorem eq_of_momentary_lit_driven (h : DriverOk s) {c : SetCall} {k : Nat} (hon : c.on = true)
    (hcmom : isMomentary s.params c.slot = true) (hcind : hasIndicator s.params c.slot = true) (hk : k < s.nSlots)
    (hmom : isMomentary s.params k = true) (hlit : (driven s.params s.ind c).getLsbD k = true) : k = c.slot := by
  by_contra hne
  have hbefore : s.ind.getLsbD k = true := (lit_of_lit_driven hlit).resolve_right fun hcall => hne hcall.1
  have hindicator : hasIndicator s.params k = true := by
    by_contra hnone
    simp [h.no_indicator k hk (by simpa using hnone)] at hbefore
  simp [dark_of_momentary_on hon hcmom hcind hne hmom hindicator] at hlit

theorem driverOk_driven (h : DriverOk s) (c : SetCall) : DriverOk { s with ind := driven s.params s.ind c } where
  one_lit m k hm hk hmmom hkmom hmlit hklit := by
    rcases lit_of_lit_driven hmlit with hmold | ⟨rfl, hon, hcind⟩
    · rcases lit_of_lit_driven hklit with hkold | ⟨rfl, hon, hcind⟩
      · exact h.one_lit m k hm hk hmmom hkmom hmold hkold
      · exact eq_of_momentary_lit_driven h hon hkmom hcind hm hmmom hmlit
    · exact (eq_of_momentary_lit_driven h hon hmmom hcind hk hkmom hklit).symm
  no_indicator m hm hnone := Bool.eq_false_iff.mpr fun hlit => by
    rcases lit_of_lit_driven hlit with hold | ⟨rfl, _, hcind⟩
    · simp [h.no_indicator m hm hnone] at hold
    · exact absurd hcind (by simpa using hnone)

theorem afterCalls_driverOk {tr : List SetCall} {ind : SlotBits} (h : DriverOk s) (hcalls : AfterCalls s tr ind) :
    DriverOk { s with ind := ind } := by
  obtain ⟨calls, -, -, rfl⟩ := hcalls
  induction calls generalizing s with
  | nil => exact h
  | cons c calls ih => exact ih (driverOk_driven h c)

/-- A reset lights latching slots with an indicator only (R342). -/
theorem driverOk_reset (ch : BitVec 4) (s : State) : DriverOk (resetTo ch s) where
  one_lit m k _ _ hmom _ hlit _ := by
    have hmom' : isMomentary s.params m = true := hmom
    simp [resetTo, resetInd, hmom'] at hlit
  no_indicator m _ hnone := by
    have hnone' : hasIndicator s.params m = false := hnone
    simp [resetTo, resetInd, hnone']

theorem opEffect_driverOk {i : Instr} (h : DriverOk s) (he : OpEffect s i t) : DriverOk t := by
  cases he with
  | parsed _ _ hcalls | commanded _ hcalls | drained _ _ hcalls =>
    exact driverOk_of_sameInd (afterCalls_driverOk h hcalls) rfl rfl
  | polled hslot hswitch | confirmed hslot hswitch =>
    exact driverOk_of_sameInd (afterCalls_driverOk h (switchEffect_afterCalls hslot hswitch)) rfl rfl
  | wasReset ch => exact driverOk_of_sameInd (driverOk_reset ch s) rfl rfl
  | pushed b =>
    obtain ⟨cells, hd, n, heq⟩ := ringPush_frame b s
    rw [heq]
    exact driverOk_of_sameInd h rfl rfl
  | answered | raised | popped | moved | ticked | levelled => exact driverOk_of_sameInd h rfl rfl

end

/-- Settles O46: the indicators change by calls of the Output Driver and by RESET, and each keeps the invariant. -/
theorem driverInvariantKept : Obligations.DriverInvariantKept := fun _ _ _ =>
  step_keeps (fun _ _ h => driverOk_of_sameInd h rfl rfl) (fun _ _ h => driverOk_of_sameInd h rfl rfl)
    (fun _ _ _ h hexec => opEffect_driverOk h (exec_effect hexec))

/-! ### The calls of the switches and of the MIDI path -/

/-- `ind` is reached from the indicators of `s` by calls none of which turns a momentary slot off. -/
def Dispatched (s : State) (ind : SlotBits) : Prop :=
  ∃ calls : List SetCall, (∀ c ∈ calls, isMomentary s.params c.slot = true → c.on = true) ∧
    ind = calls.foldl (driven s.params) s.ind

section
variable {s t : State}

theorem dispatched_none (s : State) : Dispatched s s.ind := ⟨[], by simp, rfl⟩

theorem dispatched_one {k : Nat} {on : Bool} (hon : isMomentary s.params k = true → on = true) :
    Dispatched s (driven s.params s.ind ⟨k, on⟩) :=
  ⟨[⟨k, on⟩], by simpa using hon, rfl⟩

/-- The scan commands a momentary slot on whatever the value (R240). -/
theorem dispatched_midi (s : State) (cc val : Data7) :
    Dispatched s ((midiCalls s.params cc val).foldl (driven s.params) s.ind) := by
  refine ⟨midiCalls s.params cc val, fun c hc hmom => ?_, rfl⟩
  obtain ⟨i, -, rfl⟩ := List.mem_map.mp hc
  exact Bool.or_eq_true_iff.mpr (.inl hmom)

/-- A momentary confirm commands on, and a flip is of a latching slot (R136, R140). -/
theorem switchEffect_dispatched {k : Nat} {a : SlotBits} {tr : List SetCall} {ind : SlotBits}
    (h : SwitchEffect k s a tr ind) : Dispatched s ind := by
  cases h with
  | unchanged => exact dispatched_none s
  | momentary => exact dispatched_one fun _ => rfl
  | latching hmom => exact dispatched_one fun hmom' => absurd hmom' (by simp [hmom])

theorem parserByte_dispatched (b : Byte) (s : State) : Dispatched s (parserByte b s).ind := by
  obtain ⟨ps, pd, tr, ind, heq, -, ⟨-, rfl⟩ | ⟨-, rfl⟩⟩ := parserByte_eq b s <;> rw [heq]
  · exact dispatched_none s
  · exact dispatched_midi s _ _

theorem execParse_dispatched {b : Byte} (h : execParse b s = .next t) : Dispatched s t.ind := by
  rcases consumeByte_next h with ⟨_, rfl⟩ | ⟨_, rfl⟩
  · exact dispatched_none s
  · exact parserByte_dispatched b s

theorem takesAByte_dispatched {i : Instr} (hbyte : takesAByte i) (h : exec i s = .next t) : Dispatched s t.ind := by
  obtain ⟨b, rfl⟩ | ⟨b, henc⟩ := hbyte
  · exact execParse_dispatched h
  · rw [byteClassActsAsParseOfItsByte i b s henc] at h
    exact execParse_dispatched h

theorem advance_ind (s : State) : (advance s).ind = s.ind := by
  obtain ⟨q, ph, heq⟩ := advance_effect s
  rw [heq]

theorem sampleStep_ind (s : State) : (sampleStep s).ind = s.ind := by
  rcases sampleStep_effect s with heq | heq <;> rw [heq]
  exact advance_ind s

theorem confirmStep_dispatched (s : State) : Dispatched s (confirmStep s).ind := by
  obtain ⟨a, tr, ind, hswitch, heq | heq⟩ := confirmStep_effect s <;> rw [heq]
  · rw [advance_ind]
    exact switchEffect_dispatched hswitch
  · exact switchEffect_dispatched hswitch

theorem execStep_dispatched (h : execStep s = .next t) : Dispatched s t.ind := by
  rcases execStep_next h with ⟨_, rfl⟩ | ⟨_, _, rfl⟩ | ⟨_, _, _, rfl⟩ | ⟨_, _, rfl⟩ | ⟨_, _, rfl⟩ |
    ⟨b, u, _, _, hpop, ⟨_, rfl⟩ | ⟨_, rfl⟩⟩
  · exact dispatched_none s
  · rw [done_ind, sampleStep_ind]
    exact dispatched_none s
  · exact confirmStep_dispatched s
  · rw [done_ind, advance_ind]
    exact dispatched_none s
  · exact dispatched_none s
  · exact dispatched_none s
  · obtain ⟨_, rfl⟩ := ringPop_some hpop
    exact parserByte_dispatched b { s with tail := nextIndex s.params s.tail, count := s.count - 1 }

theorem execPoll_dispatched {slot : SlotIdx} (h : execPoll slot s = .next t) : Dispatched s t.ind := by
  unfold execPoll at h
  split at h <;> cases h
  · obtain ⟨a, tr, ind, heq, hswitch⟩ := pollSlot_effect slot.toNat s
    rw [heq]
    exact switchEffect_dispatched hswitch
  · exact dispatched_none s

/-- The guard that SET and ONSWITCH share: of their calls only an off can darken a momentary slot (R113, R160, R243). -/
theorem driverSet_dispatched_or_off {slot : SlotIdx} {on : Bool} {e : ModelOutcome}
    (h : (if slot.toNat < s.nSlots then .next (done (driverSet slot.toNat on s)) else .next (raise e s) : Answer) = .next t) :
    Dispatched s t.ind ∨ (on = false ∧ t.ind = driven s.params s.ind ⟨slot.toNat, false⟩) := by
  split at h <;> cases h
  · rw [driverSet_eq]
    cases on with
    | true => exact .inl (dispatched_one fun _ => rfl)
    | false => exact .inr ⟨rfl, rfl⟩
  · exact .inl (dispatched_none s)

/-- Only the test port's SET and ONSWITCH can turn a momentary slot off, and only RESET writes the indicators otherwise than by
calls. -/
theorem exec_dispatched_or_off_or_reset {i : Instr} (h : exec i s = .next t) :
    Dispatched s t.ind ∨
    (∃ slot : SlotIdx, (i = .set slot false ∨ i = .onswitch slot false) ∧
      t.ind = driven s.params s.ind ⟨slot.toNat, false⟩) ∨
    ∃ ch, i = .reset ch := by
  obtain ⟨-, -, -, hwriter, -⟩ := everyElementHasItsWriters i s t h
  rcases hwriter with ⟨hsame, -⟩ | ⟨slot, on, rfl⟩ | ⟨slot, on, rfl⟩ | ⟨cc, val, rfl⟩ | ⟨slot, rfl⟩ | hbyte | rfl | hreset
  · exact .inl (hsame ▸ dispatched_none s)
  · exact (driverSet_dispatched_or_off h).imp_right fun ⟨hoff, hind⟩ => .inl ⟨slot, .inl (hoff ▸ rfl), hind⟩
  · exact (driverSet_dispatched_or_off h).imp_right fun ⟨hoff, hind⟩ => .inl ⟨slot, .inr (hoff ▸ rfl), hind⟩
  · cases h
    rw [onMidi_eq]
    exact .inl (dispatched_midi s cc val)
  · exact .inl (execPoll_dispatched h)
  · exact .inl (takesAByte_dispatched hbyte h)
  · exact .inl (execStep_dispatched h)
  · exact .inr (.inr hreset)

end

/-! ### How a lit momentary indicator goes dark (R166) -/

/-- Slot `m`'s indicator is lit, or that of another momentary slot that has one. -/
def LitOrReplaced (p : Params) (m : Nat) (ind : SlotBits) : Prop :=
  ind.getLsbD m = true ∨
    ∃ k, k < p.nSlots ∧ k ≠ m ∧ isMomentary p k = true ∧ hasIndicator p k = true ∧ ind.getLsbD k = true

section
variable {p : Params} {m : Nat} {ind : SlotBits}

theorem litOrReplaced_of_lit {k : Nat} (hmom : isMomentary p k = true) (hindicator : hasIndicator p k = true)
    (hlit : ind.getLsbD k = true) : LitOrReplaced p m ind := by
  by_cases hkm : k = m
  · exact .inl (hkm ▸ hlit)
  · exact .inr ⟨k, lt_nSlots_of_isMomentary hmom, hkm, hmom, hindicator, hlit⟩

/-- A lit momentary indicator whose slot is not turned off stays lit or gives way to the one the call lights. -/
theorem litOrReplaced_driven_of_lit {c : SetCall} {k : Nat} (hn : p.nSlots ≤ 16) (hlit : ind.getLsbD k = true)
    (hon : c.slot = k → c.on = true) :
    (driven p ind c).getLsbD k = true ∨ LitOrReplaced p m (driven p ind c) := by
  cases hdark : (driven p ind c).getLsbD k
  case true => exact .inl rfl
  case false =>
    rcases off_or_cleanup_of_dark_driven hlit hdark with ⟨hslot, hoff⟩ | ⟨-, hcon, hmom, hindicator⟩
    · simp [hon hslot] at hoff
    · have h16 : c.slot < 16 := (lt_nSlots_of_isMomentary hmom).trans_le hn
      exact .inr (litOrReplaced_of_lit hmom hindicator ((getLsbD_driven_self ind c.on h16 hindicator).trans hcon))

theorem litOrReplaced_driven {c : SetCall} (hn : p.nSlots ≤ 16) (hm : isMomentary p m = true)
    (hon : isMomentary p c.slot = true → c.on = true) (h : LitOrReplaced p m ind) :
    LitOrReplaced p m (driven p ind c) := by
  rcases h with hlit | ⟨k, -, -, hmom, hindicator, hlit⟩
  · exact (litOrReplaced_driven_of_lit hn hlit fun hslot => hon (hslot ▸ hm)).elim .inl id
  · exact (litOrReplaced_driven_of_lit hn hlit fun hslot => hon (hslot ▸ hmom)).elim
      (litOrReplaced_of_lit hmom hindicator) id

theorem litOrReplaced_of_dispatched {s : State} (hn : s.nSlots ≤ 16) (hm : isMomentary s.params m = true)
    (hlit : s.ind.getLsbD m = true) (hcalls : Dispatched s ind) : LitOrReplaced s.params m ind := by
  obtain ⟨calls, hon, rfl⟩ := hcalls
  refine List.foldlRecOn calls (driven s.params) (.inl hlit) fun v hv c hc => ?_
  exact litOrReplaced_driven hn hm (hon c hc) hv

end

/-- Settles O55: calls that turn no momentary slot off leave the indicator lit or replaced, and one call that turns a slot off
darkens that slot only. -/
theorem momentaryGoesDarkOnlyByCleanup : Obligations.MomentaryGoesDarkOnlyByCleanup := by
  intro i s t m hn _ hmom hexec hlit hdark
  rcases exec_dispatched_or_off_or_reset hexec with hcalls | ⟨slot, hop, hoff⟩ | hreset
  · have hreplaced := litOrReplaced_of_dispatched hn hmom hlit hcalls
    exact .inl (hreplaced.resolve_left (by simp [hdark]))
  · rw [hoff] at hdark
    rcases off_or_cleanup_of_dark_driven hlit hdark with ⟨hslot, -⟩ | ⟨-, hon, -⟩
    · exact .inr (.inl ⟨slot, hslot, hop⟩)
    · cases hon
  · exact .inr (.inr hreset)

end Sys2Proof.Proofs
end

section
/-! PROOFS. The ring buffer's operations one at a time: PUSH, POP and AVAIL as equations on the state, and a push and a pop on the
live bytes (R181-R185). -/

namespace Sys2Proof.Proofs

open Sys2Proof Sys2Proof.Machine Sys2Proof.Spec

section
variable {s : State} {b : Byte}

/-! ### PUSH and AVAIL as equations -/

theorem exec_push (b : Byte) (s : State) : exec (.push b) s = .next (done (ringPush b s)) := rfl

theorem exec_push_full (b : Byte) (hfull : s.count = s.params.rbCap) : exec (.push b) s = .next (done s) := by
  rw [exec_push, ringPush_full b s hfull]

theorem exec_push_room (b : Byte) (hroom : s.count ≠ s.params.rbCap) :
    exec (.push b) s = .next { s with
      head := nextIndex s.params s.head, rb := Memory.write s.rb (nextIndex s.params s.head) b,
      count := s.count + 1, result := .done } := by
  rw [exec_push, ringPush_room b s hroom, done]

theorem exec_avail (s : State) : exec .avail s = .next { s with result := .count s.count } := rfl

/-! ### The oldest live byte -/

/-- The first live byte is there to pop: the buffer is not empty, and the byte stands in the cell after `tail` (R39, R183). -/
theorem oldest_of_liveCells {l : List (Option Byte)} (hlive : liveCells s = some b :: l) :
    s.count ≠ 0 ∧ rbRead s (s.tail + 1) = some b := by
  cases hcount : s.count with
  | zero => simp [liveCells, hcount] at hlive
  | succ n =>
    simp only [liveCells, hcount, List.range_succ_eq_map, List.map_cons, Nat.add_zero, List.cons.injEq] at hlive
    exact ⟨Nat.succ_ne_zero n, hlive.1⟩

/-! ### One operation on the live bytes -/

theorem exec_push_room_live (b : Byte) (h : RingOk s) (hroom : s.count ≠ s.params.rbCap) :
    ∃ t, exec (.push b) s = .next t ∧ liveCells t = liveCells s ++ [some b] ∧ t.count = s.count + 1 := by
  refine ⟨done (ringPush b s), exec_push b s, liveCells_push_room b h hroom, ?_⟩
  rw [ringPush_room b s hroom]
  rfl

theorem exec_push_full_live (b : Byte) (hfull : s.count = s.params.rbCap) :
    ∃ t, exec (.push b) s = .next t ∧ liveCells t = liveCells s ∧ t.count = s.count :=
  ⟨done s, exec_push_full b hfull, liveCells_of_sameRing rfl rfl rfl rfl, rfl⟩

theorem exec_pop_live (h : RingOk s) (hcount : s.count ≠ 0) :
    ∃ t b, exec .pop s = .next t ∧ t.result = .byte b ∧ liveCells s = some b :: liveCells t := by
  obtain ⟨b, u, hpop⟩ := ringPop_isSome h hcount
  have hlive : liveCells s = some b :: liveCells { u with result := .byte b } := (liveCells_pop hcount hpop).trans rfl
  exact ⟨_, b, exec_pop_byte hcount hpop, rfl, hlive⟩

end

/-- Settles O12: the state after each branch is the push's equation, and the cells are read through the write at the advanced
head. -/
theorem pushStoresOrDrops : Obligations.PushStoresOrDrops := fun b _ =>
  ⟨exec_push_full b, fun hroom =>
    ⟨_, exec_push_room b hroom, memory_read_write_same _ _ b, fun _ haddr => memory_read_write_ne _ b haddr⟩⟩

/-- Settles O16: one operation's effect on the live bytes, for a push with room, a push on a full buffer and a pop. -/
theorem ringOperationsKeepTheOrder : Obligations.RingOperationsKeepTheOrder := fun _ h =>
  ⟨fun b => exec_push_room_live b h, fun b => exec_push_full_live b, fun hcount => exec_pop_live h (Nat.ne_of_gt hcount)⟩

/-- Settles O13: on an empty buffer the guard of POP decides; otherwise the cell that POP reads is the first of the live ones. -/
theorem popReturnsTheOldestByte : Obligations.PopReturnsTheOldestByte := by
  refine fun s => ⟨fun hcount => ?_, fun b l hlive => ?_⟩
  · rw [exec_pop_empty hcount, raise_eq_recorded, wordPop]
  · obtain ⟨hcount, hread⟩ := oldest_of_liveCells hlive
    exact exec_pop_byte hcount (ringPop_of_read hread)

/-- Settles O14: AVAIL's equation. -/
theorem availReturnsTheCount : Obligations.AvailReturnsTheCount := exec_avail

end Sys2Proof.Proofs
end

section
/-! PROOFS. PARSE: the six arms as equations (R211-R216), the state that is no parser state (R218), and resynchronisation
(R217). -/

namespace Sys2Proof.Proofs

open Sys2Proof Sys2Proof.Machine Sys2Proof.Spec

section
variable {s : State} {b : Byte}

/-! ### PARSE, one equation per arm -/

theorem exec_parse_match (hp : s.pstate = pstateS0) (hb : b = ccStatus s.chanBits) :
    exec (.parse b) s = .next { s with pstate := pstateS1, result := .done } :=
  consumeByte_of_parserByte hp (by decide) (parserByte_match hp hb)

theorem exec_parse_ignore (hp : s.pstate = pstateS0) (hb : b ≠ ccStatus s.chanBits) :
    exec (.parse b) s = .next { s with result := .done } :=
  consumeByte_of_parserByte hp (by decide) (parserByte_ignore hp hb)

theorem exec_parse_s1_data (hp : s.pstate = pstateS1) (hb : isStatus b = false) :
    exec (.parse b) s = .next { s with pending := low7 b, pstate := pstateS2, result := .done } :=
  consumeByte_of_parserByte hp (by decide) (parserByte_s1_data hp hb)

theorem exec_parse_s1_status (hp : s.pstate = pstateS1) (hb : isStatus b = true) :
    exec (.parse b) s = .next { s with pstate := pstateS0, result := .done } :=
  consumeByte_of_parserByte hp (by decide) (parserByte_s1_status hp hb)

theorem exec_parse_s2_data (hp : s.pstate = pstateS2) (hb : isStatus b = false) :
    exec (.parse b) s = .next { done (onMidi s.pending (low7 b) s) with pstate := pstateS0 } :=
  consumeByte_of_parserByte hp (by decide) (parserByte_s2_data hp hb)

theorem exec_parse_s2_status (hp : s.pstate = pstateS2) (hb : isStatus b = true) :
    exec (.parse b) s = .next { s with pstate := pstateS0, result := .done } :=
  consumeByte_of_parserByte hp (by decide) (parserByte_s2_status hp hb)

/-- A byte in S2 ends the message, dispatched or not (R215, R216). -/
theorem exec_parse_s2_ends (b : Byte) (hp : s.pstate = pstateS2) :
    ∃ t, exec (.parse b) s = .next t ∧ t.pstate = pstateS0 := by
  cases hb : isStatus b
  case false => exact ⟨_, exec_parse_s2_data hp hb, rfl⟩
  case true => exact ⟨_, exec_parse_s2_status hp hb, rfl⟩

/-! ### The state that is no parser state (R218) -/

theorem exec_parse_illegal (b : Byte) (hp : s.pstate = pstateIllegal) :
    exec (.parse b) s = .next (recorded (.refusedState b) s) :=
  if_pos hp

theorem midiStep_illegal {l : List (Option Byte)} (hp : s.pstate = pstateIllegal) (hlive : liveCells s = some b :: l) :
    midiStep s = .next (recorded (.refusedState b) s) := by
  obtain ⟨hcount, hread⟩ := oldest_of_liveCells hlive
  simp only [midiStep, if_neg hcount, ringPop_of_read hread, if_pos hp, raise_eq_recorded]

/-! ### The three bytes of a message (R217) -/

/-- The dispatch reads none of the parser registers and changes none. -/
theorem onMidi_parserRegisters (cc val : Data7) (s : State) (ps : BitVec 2) (pd : Data7) (r : OpResult) :
    onMidi cc val { s with pstate := ps, pending := pd, result := r } =
      { onMidi cc val s with pstate := ps, pending := pd, result := r } := by
  simp only [onMidi_eq]

/-- From S0 the status byte, the number and the value make the dispatch of the pair, and the number stays pending. -/
theorem exec_parse_message (n v : Data7) (hp : s.pstate = pstateS0) :
    ∃ t1 t2, exec (.parse (ccStatus s.chanBits)) s = .next t1 ∧ exec (.parse (dataByte n)) t1 = .next t2 ∧
      exec (.parse (dataByte v)) t2 = .next { done (onMidi n v s) with pending := n } := by
  have hnumber := exec_parse_s1_data (s := { s with pstate := pstateS1, result := .done }) rfl (isStatus_dataByte n)
  have hvalue := exec_parse_s2_data (s := { s with pstate := pstateS2, pending := n, result := .done }) rfl
    (isStatus_dataByte v)
  rw [low7_dataByte] at hnumber hvalue
  refine ⟨_, _, exec_parse_match hp rfl, hnumber, hvalue.trans ?_⟩
  have hend : (onMidi n v s).pstate = pstateS0 := by rw [onMidi_eq, hp]
  rw [onMidi_parserRegisters, done, done, ← hend]

end

/-- Settles O23: the three equations of a message in turn; in S1 the class of the byte decides, and S2 is left on any byte. -/
theorem parserResynchronises : Obligations.ParserResynchronises := by
  refine ⟨fun n v s hp => ?_, fun b s hp => exec_parse_s2_ends b hp, fun b c s hp => ?_⟩
  · obtain ⟨t1, t2, hstatus, hnumber, hvalue⟩ := exec_parse_message n v hp
    exact ⟨t1, t2, _, _, hstatus, hnumber, hvalue, rfl, rfl⟩
  · cases hb : isStatus b
    case false =>
      obtain ⟨u, hsecond, hend⟩ :=
        exec_parse_s2_ends (s := { s with pending := low7 b, pstate := pstateS2, result := .done }) c rfl
      exact ⟨_, u, exec_parse_s1_data hp hb, .inr ⟨rfl, hb, hsecond, hend⟩⟩
    case true => exact ⟨_, s, exec_parse_s1_status hp hb, .inl ⟨rfl, hb⟩⟩

/-- Settles O19: one equation of PARSE per arm. -/
theorem parserTransitions : Obligations.ParserTransitions := by
  intro b s
  rw [← low7_eq_setWidth]
  exact ⟨exec_parse_match, exec_parse_ignore, exec_parse_s1_data, exec_parse_s1_status,
    fun hp hb => ⟨_, rfl, exec_parse_s2_data hp hb⟩, exec_parse_s2_status⟩

/-- Settles O20: PARSE and the MIDI step ask for the parser state before anything is parsed or popped. -/
theorem parserRefusesTheIllegalState : Obligations.ParserRefusesTheIllegalState := fun b _ hp =>
  ⟨exec_parse_illegal b hp, fun _ hphase hlive => (execStep_midi hphase).trans (midiStep_illegal hp hlive)⟩

end Sys2Proof.Proofs
end

section
/-! PROOFS. The Dispatcher: ONMIDI as the calls of an ascending scan (R240, R242), ONSWITCH as SET (R243), the MIDI path beside `is_on`
(R245), and the two presses of a latching slot out of step with its indicator (R247). -/

namespace Sys2Proof.Proofs

open Sys2Proof Sys2Proof.Machine Sys2Proof.Spec

/-! ### The calls of a CC pair (R240) -/

section
variable {p : Params} {cc val : Data7}

theorem commands_eq_midiCalls (p : Params) (cc val : Data7) : commands p cc val = midiCalls p cc val := by
  simp only [commands, midiCalls, beq_eq_decide]

theorem mem_midiCalls {c : SetCall} :
    c ∈ midiCalls p cc val ↔
      c.slot < p.nSlots ∧ ccNumber p c.slot = cc ∧ c.on = (isMomentary p c.slot || decide (val = onValue p c.slot)) := by
  simp only [midiCalls, List.mem_map, List.mem_filter, List.mem_range, decide_eq_true_eq]
  constructor
  · rintro ⟨i, ⟨hi, hcc⟩, rfl⟩
    exact ⟨hi, hcc, rfl⟩
  · rintro ⟨hi, hcc, hon⟩
    exact ⟨c.slot, ⟨hi, hcc⟩, by rw [← hon]⟩

theorem midiCalls_ascending (p : Params) (cc val : Data7) :
    (midiCalls p cc val).Pairwise fun c d => c.slot < d.slot :=
  (List.pairwise_lt_range.filter _).map _ fun _ _ h => h

/-- The scan reaches a matching momentary slot with an on, and only higher slots after it. -/
theorem midiCalls_split_at_momentary {k : Nat} (hk : k < p.nSlots) (hmom : isMomentary p k = true)
    (hcc : ccNumber p k = cc) :
    ∃ before after, midiCalls p cc val = before ++ ⟨k, true⟩ :: after ∧ ∀ c ∈ after, k < c.slot := by
  have hmem : (⟨k, true⟩ : SetCall) ∈ midiCalls p cc val := mem_midiCalls.mpr ⟨hk, hcc, by simp [hmom]⟩
  obtain ⟨before, after, hsplit⟩ := List.append_of_mem hmem
  have hascending := midiCalls_ascending p cc val
  rw [hsplit, List.pairwise_append, List.pairwise_cons] at hascending
  obtain ⟨-, ⟨hafter, -⟩, -⟩ := hascending
  exact ⟨before, after, hsplit, hafter⟩

end

/-! ### ONMIDI (R240) -/

theorem indAfterCalls_foldl_driven (p : Params) (calls : List SetCall) (ind : SlotBits) :
    IndAfterCalls p calls ind (calls.foldl (driven p) ind) := by
  induction calls generalizing ind with
  | nil => rfl
  | cons c calls ih => exact ⟨driven p ind c, indAfterSet_driven p c.slot c.on ind, ih (driven p ind c)⟩

theorem exec_onmidi (cc val : Data7) (s : State) :
    exec (.onmidi cc val) s =
      .next { s with trace := s.trace ++ midiCalls s.params cc val,
                     ind := (midiCalls s.params cc val).foldl (driven s.params) s.ind, result := .done } :=
  congrArg (fun t => Host.Outcome.next (done t)) (onMidi_eq cc val s)

/-- Settles O24: the statement's calls are the scan's, and the driver receives them one by one. -/
theorem onmidiCommandsEveryMatch : Obligations.OnmidiCommandsEveryMatch := by
  intro cc val s
  rw [commands_eq_midiCalls]
  exact ⟨_, indAfterCalls_foldl_driven _ _ _, exec_onmidi cc val s⟩

/-! ### The momentary indicator left lit (R161, R242) -/

/-- Of the momentary slots with an indicator exactly `k` is lit. -/
def OnlyMomentaryLit (p : Params) (k : Nat) (ind : SlotBits) : Prop :=
  ∀ m, isMomentary p m = true → hasIndicator p m = true → ind.getLsbD m = decide (m = k)

section
variable {p : Params} {ind : SlotBits} {k : Nat}

theorem onlyMomentaryLit_driven_on (h16 : k < 16) (hmom : isMomentary p k = true) (hindicator : hasIndicator p k = true) :
    OnlyMomentaryLit p k (driven p ind ⟨k, true⟩) := by
  intro m hmmom hmind
  by_cases hmk : m = k
  · simp [hmk, getLsbD_driven_self ind true h16 hindicator]
  · simp [hmk, dark_of_momentary_on (c := ⟨k, true⟩) rfl hmom hindicator hmk hmmom hmind]

/-- A call for a latching slot moves that slot's bit at most, and one for a slot without an indicator moves none (R160, R162, R163). -/
theorem getLsbD_driven_other {c : SetCall} (hc : isMomentary p c.slot = true → hasIndicator p c.slot = false)
    (hne : k ≠ c.slot) : (driven p ind c).getLsbD k = ind.getLsbD k := by
  by_cases h16 : k < 16
  · rw [getLsbD_driven]
    cases hmom : isMomentary p c.slot
    case true => simp [h16, hc hmom]
    case false => simp [h16, hne]
  · simp [getLsbD_of_ge _ (Nat.le_of_not_lt h16)]

theorem onlyMomentaryLit_driven_other {c : SetCall} (h : OnlyMomentaryLit p k ind)
    (hc : isMomentary p c.slot = true → hasIndicator p c.slot = false) : OnlyMomentaryLit p k (driven p ind c) := by
  intro m hmom hindicator
  have hne : m ≠ c.slot := by
    rintro rfl
    simp [hc hmom] at hindicator
  rw [getLsbD_driven_other hc hne, h m hmom hindicator]

end

/-- Settles O25: the call of `k` leaves it the one momentary indicator lit, and the calls after it are of slots that cannot change
that. -/
theorem highestMomentaryMatchStaysLit : Obligations.HighestMomentaryMatchStaysLit := by
  intro cc val s k hn hk hmom hindicator hcc hhighest
  refine ⟨_, exec_onmidi cc val s, fun m _ => ?_⟩
  obtain ⟨before, after, hsplit, hhigher⟩ := midiCalls_split_at_momentary (val := val) hk hmom hcc
  have hother : ∀ c ∈ after, isMomentary s.params c.slot = true → hasIndicator s.params c.slot = false := by
    intro c hc hcmom
    obtain ⟨hcslot, hccc, -⟩ := mem_midiCalls.mp (hsplit ▸ List.mem_append_right before (List.mem_cons_of_mem _ hc))
    by_contra hcind
    exact hhighest c.slot (hhigher c hc) hcslot hcmom (by simpa using hcind) hccc
  have hlit : OnlyMomentaryLit s.params k ((midiCalls s.params cc val).foldl (driven s.params) s.ind) := by
    rw [hsplit, List.foldl_append, List.foldl_cons]
    exact List.foldlRecOn after (driven s.params) (onlyMomentaryLit_driven_on (hk.trans_le hn) hmom hindicator)
      fun ind h c hc => onlyMomentaryLit_driven_other h (hother c hc)
  exact hlit m

/-! ### ONSWITCH (R243) -/

theorem exec_onswitch_eq_exec_set {slot : SlotIdx} {s : State} (on : Bool) (hslot : slot.toNat < s.nSlots) :
    exec (.onswitch slot on) s = exec (.set slot on) s := by
  change execOnswitch slot on s = execSet slot on s
  rw [execOnswitch, if_pos hslot, execSet, if_pos hslot, onSwitch]

/-- Settles O27: ONSWITCH is SET where the slot exists, and the guard records any other. -/
theorem onswitchCommandsTheSlot : Obligations.OnswitchCommandsTheSlot := by
  refine fun slot on s => ⟨fun hslot => ?_, fun hslot => if_neg (Nat.not_lt.mpr hslot)⟩
  have hset := exec_onswitch_eq_exec_set on hslot
  exact ⟨_, indAfterSet_driven _ _ _ _, hset.trans (execSet_slot on hslot), hset⟩

/-! ### The MIDI path and `is_on` (R245) -/

section
variable {s t : State}

theorem parserByte_isOn (b : Byte) (s : State) : (parserByte b s).isOn = s.isOn := by
  obtain ⟨ps, pd, tr, ind, heq, -⟩ := parserByte_eq b s
  rw [heq]

theorem midiStep_isOn (h : midiStep s = .next t) : t.isOn = s.isOn := by
  unfold midiStep at h
  split at h
  · cases h
    rfl
  · split at h
    · cases h
    · rename_i b u hpop
      obtain ⟨-, rfl⟩ := ringPop_some hpop
      split at h <;> cases h
      · rfl
      · exact parserByte_isOn b _

end

/-- Settles O56: of the writers of `is_on` POLL and RESET are not on the MIDI path, and STEP is there in its MIDI phase only. -/
theorem midiPathNeverWritesIsOn : Obligations.MidiPathNeverWritesIsOn := by
  intro i s t h hpath
  obtain ⟨-, -, hwriter, -⟩ := everyElementHasItsWriters i s t h
  rcases hwriter with hsame | ⟨slot, rfl⟩ | rfl | ⟨ch, rfl⟩
  · exact hsame
  · simp [takesAByte, encode] at hpath
  · have hphase : s.phase = .midi := by simpa [takesAByte, encode] using hpath
    exact midiStep_isOn ((execStep_midi hphase).symm.trans h)
  · simp [takesAByte, encode] at hpath

/-! ### A latching slot out of step with its indicator (R247) -/

theorem getLsbD_putBit_self (v : SlotBits) {k : Nat} (b : Bool) (h16 : k < 16) : (putBit v k b).getLsbD k = b := by
  rw [getLsbD_putBit]
  simp [h16]

/-- Commanding a latching slot to the level its indicator already shows changes nothing (R162, R163). -/
theorem driven_latching_same {p : Params} {ind : SlotBits} {k : Nat} {on : Bool} (hmom : isMomentary p k = false)
    (hsame : ind.getLsbD k = on) : driven p ind ⟨k, on⟩ = ind := by
  refine slotBits_ext fun m h16 => ?_
  by_cases hmk : m = k
  · subst hmk
    rw [getLsbD_driven, hsame]
    simp [h16]
  · exact getLsbD_driven_other (by simp [hmom]) hmk

theorem exec_poll_latching_pressed {slot : SlotIdx} {s : State} (hslot : slot.toNat < s.nSlots)
    (hmom : isMomentary s.params slot.toNat = false) (hpressed : s.pins.getLsbD slot.toNat = false) :
    exec (.poll slot) s =
      .next { s with isOn := putBit s.isOn slot.toNat (!s.isOn.getLsbD slot.toNat),
                     trace := s.trace ++ [⟨slot.toNat, !s.isOn.getLsbD slot.toNat⟩],
                     ind := driven s.params s.ind ⟨slot.toNat, !s.isOn.getLsbD slot.toNat⟩, result := .done } := by
  rw [exec_poll hslot, pollSlot_latching_pressed hmom hpressed]
  rfl

/-- Settles O35: each press flips `is_on` and commands its new value; the first command finds the indicator there already. -/
theorem latchingDesyncTakesTwoPresses : Obligations.LatchingDesyncTakesTwoPresses := by
  intro slot s hslot hmom hindicator hpressed hdiffers
  have hflipped := getLsbD_putBit_self s.isOn (!s.isOn.getLsbD slot.toNat) slot.isLt
  have hback : (!(putBit s.isOn slot.toNat (!s.isOn.getLsbD slot.toNat)).getLsbD slot.toNat) = s.isOn.getLsbD slot.toNat := by
    rw [hflipped, Bool.not_not]
  refine ⟨_, _, exec_poll_latching_pressed hslot hmom hpressed, exec_poll_latching_pressed hslot hmom hpressed,
    hflipped, ?_, ?_, ?_⟩
  · exact driven_latching_same hmom (Bool.eq_not.mpr hdiffers)
  · exact (getLsbD_putBit_self _ _ slot.isLt).trans hback
  · exact (getLsbD_driven_self _ _ slot.isLt hindicator).trans hback

end Sys2Proof.Proofs
end

section
/-! PROOFS. The control loop: STEP by phase (R261, R264, R265), what holds SEQ and what lifts the hold (R268), and
TICK and PINS (R266, R267). -/

namespace Sys2Proof.Proofs

open Sys2Proof Sys2Proof.Machine Sys2Proof.Spec

section
variable {s t : State}

/-! ### Ticks (R266) -/

theorem isWait_iff {ph : Phase} : ph.isWait = true ↔ ph = .debounce ∨ ph = .holdoff := by
  cases ph <;> simp [Phase.isWait]

theorem passTicks_wait (n : Nat) (hwait : s.phase.isWait = true) :
    passTicks n s = { s with waitCtr := s.waitCtr - n } := if_pos hwait

theorem passTicks_noWait (n : Nat) (hwait : ¬ s.phase.isWait = true) : passTicks n s = s := if_neg hwait

/-- In a wait the guard on the counter is the truncation of the subtraction at 0. -/
theorem oneTick_wait (hwait : s.phase.isWait = true) : oneTick s = { s with waitCtr := s.waitCtr - 1 } := by
  by_cases hpos : 0 < s.waitCtr
  · exact if_pos ⟨isWait_iff.mp hwait, hpos⟩
  · have hzero : s.waitCtr - 1 = s.waitCtr := by omega
    rw [oneTick, if_neg fun h => hpos h.2, hzero]

theorem oneTick_noWait (hwait : ¬ s.phase.isWait = true) : oneTick s = s := if_neg fun h => hwait (isWait_iff.mpr h.1)

theorem oneTick_iterate (n : Nat) (s : State) : oneTick^[n] s = passTicks n s := by
  induction n with
  | zero => simp [passTicks]
  | succ n ih =>
    rw [Function.iterate_succ_apply', ih]
    by_cases hwait : s.phase.isWait = true
    · rw [passTicks_wait n hwait, passTicks_wait (n + 1) hwait]
      exact oneTick_wait hwait
    · rw [passTicks_noWait n hwait, passTicks_noWait (n + 1) hwait, oneTick_noWait hwait]

theorem exec_tick (n : BitVec 16) (s : State) : exec (.tick n) s = .next (done (passTicks n.toNat s)) := rfl

/-! ### The hold (R268) -/

theorem exec_step_held (hheld : held s = true) : exec .step s = .next (reportHeld s) := if_pos hheld

/-- Fewer ticks than the wait has left do not end it. -/
theorem held_passTicks {n : Nat} (hheld : held s = true) (hless : n < s.waitCtr) : held (passTicks n s) = true := by
  obtain ⟨hwait, -⟩ := (held_iff s).mp hheld
  rw [passTicks_wait n (isWait_iff.mpr hwait), held_iff]
  exact ⟨hwait, Nat.sub_pos_of_lt hless⟩

/-- The hold is read from the phase and the counter, whose writers are STEP, TICK and RESET (R31). -/
theorem exec_held_eq {i : Instr} (h : exec i s = .next t) (hstep : i ≠ .step) (htick : ∀ n, i ≠ .tick n)
    (hreset : ∀ c, i ≠ .reset c) : held t = held s := by
  obtain ⟨-, -, -, -, -, -, -, -, -, hphase, hwait, -⟩ := everyElementHasItsWriters i s t h
  simp only [hstep, htick, hreset, exists_false, or_false] at hphase hwait
  rw [held, held, hphase.1, hwait]

/-! ### STEP, one equation per remaining case -/

theorem execStep_holdoff (hphase : s.phase = .holdoff) (hwait : s.waitCtr = 0) :
    execStep s = .next (done (advance s)) := by
  simp [execStep, held, hphase, hwait]

/-- A drain is the pop of the oldest byte, its PARSE, and the move to slot 0 (R265). -/
theorem midiStep_parse {b : Byte} {l : List (Option Byte)} (hlive : liveCells s = some b :: l)
    (hp : s.pstate ≠ pstateIllegal) :
    ∃ u, exec (.parse b) { s with tail := (s.tail + 1) % s.params.rbCap, count := s.count - 1 } = .next u ∧
      midiStep s = .next { u with seqSlot := 0#4, phase := .sample } := by
  obtain ⟨hcount, hread⟩ := oldest_of_liveCells hlive
  exact ⟨_, consumeByte_of_parserByte rfl hp rfl, midiStep_drain hcount (ringPop_of_read hread) hp⟩

end

/-- Settles O39: the model's one subtraction is the single ticks one after another. -/
theorem tickIsRepeatedTick : Obligations.TickIsRepeatedTick := by
  intro n s
  rw [oneTick_iterate]
  obtain ⟨w, heq, -⟩ := passTicks_effect n.toNat s
  refine ⟨exec_tick n s, ?_⟩
  rw [heq]

/-- Settles O54: a held STEP changes nothing, too few ticks leave the wait on, and no other operation but RESET writes the phase
or the counter. -/
theorem holdIsLiftedByTicksAlone : Obligations.HoldIsLiftedByTicksAlone := by
  intro i s t hheld h hticks hreset
  by_cases hstep : i = .step
  · subst hstep
    cases (exec_step_held hheld).symm.trans h
    exact hheld
  by_cases htick : ∃ n, i = .tick n
  · obtain ⟨n, rfl⟩ := htick
    cases h
    exact held_passTicks hheld (hticks n rfl)
  · exact (exec_held_eq h hstep (not_exists.mp htick) hreset).trans hheld

/-- Settles O31: the switch type and the reading pick the case of the sample step. -/
theorem stepSamplesASlot : Obligations.StepSamplesASlot := by
  intro s hphase hslot
  rw [exec_step_sample hphase hslot, ← done_advance]
  refine ⟨fun hmom => ⟨fun hdiffers => ?_, fun hsame => ?_⟩, fun hmom => ⟨fun hpressed => ?_, fun hreleased => ?_⟩⟩
  · rw [sampleStep_momentary_differs hmom hdiffers]
    rfl
  · rw [sampleStep_momentary_same hmom hsame]
  · rw [sampleStep_latching_pressed hmom hpressed]
    rfl
  · rw [sampleStep_latching_released hmom hreleased]

/-- Settles O36: at 0 the hold-off's arm is reached, above 0 the guard of STEP answers. -/
theorem stepWaitsThenLeavesTheHoldoff : Obligations.StepWaitsThenLeavesTheHoldoff := by
  refine fun s => ⟨fun hphase hwait => ?_, fun hphase hpos => ?_⟩
  · rw [← done_advance]
    exact execStep_holdoff hphase hwait
  · exact exec_step_held ((held_iff s).mpr ⟨hphase, hpos⟩)

/-- Settles O37: without a byte the pass only ends; otherwise the first live byte is the one drained. -/
theorem stepDrainsOneByte : Obligations.StepDrainsOneByte := by
  refine fun s hphase => ⟨fun hcount => (execStep_midi hphase).trans (midiStep_empty hcount), fun b l hlive hp => ?_⟩
  obtain ⟨u, hparse, hstep⟩ := midiStep_parse hlive hp
  exact ⟨u, hparse, (execStep_midi hphase).trans hstep⟩

/-- Settles O40: the level vector is masked to the slots, and a word that decodes has no bit above them. -/
theorem pinsSetsTheLevels : Obligations.PinsSetsTheLevels := by
  intro v s
  refine ⟨slotBits fun k => decide (k < s.nSlots) && v.getLsbD k, fun m hm => ?_,
    fun _ hfits => slotBits_ext fun m hm => ?_, rfl⟩
  · simp [hm]
  · by_cases hslot : m < s.nSlots
    · simp [hm, hslot]
    · simp [getLsbD_of_toNat_lt hfits m (Nat.le_of_not_lt hslot), hslot]

end Sys2Proof.Proofs
end

section
/-! PROOFS. Outcomes and the receive interrupt: what is recorded stays recorded, an outcome changes nothing else (R301), and PUSH
touches the ring alone (R308). -/

namespace Sys2Proof.Proofs

open Sys2Proof Sys2Proof.Machine Sys2Proof.Spec

section
variable {s t : State} {e : ModelOutcome}

/-! ### The sticky set only grows -/

theorem mem_stickyInsert {l : List ModelOutcome} {a : ModelOutcome} (h : e ∈ l) : e ∈ stickyInsert l a := by
  unfold stickyInsert
  split
  · exact h
  · exact List.mem_append_left _ h

/-- Only a raised outcome writes the set, and RESET is no exception (R301, R340). -/
theorem opEffect_mem_sticky {i : Instr} (h : e ∈ s.sticky) (he : OpEffect s i t) : e ∈ t.sticky := by
  cases he with
  | raised _ a => exact mem_stickyInsert h
  | pushed b =>
    obtain ⟨cells, hd, n, heq⟩ := ringPush_frame b s
    rw [heq]
    exact h
  | answered | popped | parsed | polled | commanded | moved | confirmed | drained | ticked | levelled | wasReset => exact h

/-! ### An operation raises an outcome, or answers something else -/

/-- `t` is `s` with an outcome raised, or its result is no model outcome. -/
def RaisesOrCompletes (s t : State) : Prop := (∃ e, t = raise e s) ∨ ∀ e, t.result ≠ .raised e

theorem raisesOrCompletes_raise (e : ModelOutcome) (s : State) : RaisesOrCompletes s (raise e s) := .inl ⟨e, rfl⟩

theorem raisesOrCompletes_done (s u : State) : RaisesOrCompletes s (done u) := .inr fun _ h => nomatch h

/-- The result of a state that raises or completes tells which of the two it was. -/
theorem eq_recorded_of_result (h : RaisesOrCompletes s t) (hresult : t.result = .raised e) : t = recorded e s := by
  rcases h with ⟨a, rfl⟩ | hno
  · cases hresult
    exact raise_eq_recorded e s
  · exact absurd hresult (hno e)

/-- The guard that POLL, SET and ONSWITCH share (R113). -/
theorem guard_raisesOrCompletes {c : Prop} [Decidable c] {u : State}
    (h : (if c then .next (done u) else .next (raise e s) : Answer) = .next t) : RaisesOrCompletes s t := by
  split at h
  · cases h
    exact raisesOrCompletes_done s u
  · cases h
    exact raisesOrCompletes_raise e s

theorem consumeByte_raisesOrCompletes {b : Byte} (h : consumeByte b s = .next t) : RaisesOrCompletes s t := by
  rcases consumeByte_next h with ⟨_, rfl⟩ | ⟨_, rfl⟩
  · exact raisesOrCompletes_raise _ s
  · exact raisesOrCompletes_done s _

theorem execPop_raisesOrCompletes (h : execPop s = .next t) : RaisesOrCompletes s t := by
  unfold execPop at h
  split at h
  · cases h
    exact raisesOrCompletes_raise _ s
  · split at h
    · cases h
    · cases h
      exact .inr fun _ hbyte => nomatch hbyte

theorem execStep_raisesOrCompletes (h : execStep s = .next t) : RaisesOrCompletes s t := by
  rcases execStep_next h with ⟨_, rfl⟩ | ⟨_, _, rfl⟩ | ⟨_, _, _, rfl⟩ | ⟨_, _, rfl⟩ | ⟨_, _, rfl⟩ |
    ⟨b, u, _, _, _, ⟨_, rfl⟩ | ⟨_, rfl⟩⟩
  · exact .inr fun _ hheld => nomatch hheld
  · exact raisesOrCompletes_done s _
  · exact raisesOrCompletes_done s _
  · exact raisesOrCompletes_done s _
  · exact raisesOrCompletes_done s _
  · exact raisesOrCompletes_raise _ s
  · exact raisesOrCompletes_done s _

theorem execReset_raisesOrCompletes {ch : BitVec 4} (h : execReset ch s = .next t) : RaisesOrCompletes s t := by
  unfold execReset at h
  split at h
  · cases h
    exact raisesOrCompletes_raise _ s
  · cases h
    exact raisesOrCompletes_done s _

theorem exec_raisesOrCompletes {i : Instr} (h : exec i s = .next t) : RaisesOrCompletes s t := by
  cases i with
  | pop => exact execPop_raisesOrCompletes h
  | step => exact execStep_raisesOrCompletes h
  | reset ch => exact execReset_raisesOrCompletes h
  | poll | set | onswitch => exact guard_raisesOrCompletes h
  | parse | midiCcsMatch | midiS0Ignore | midiS1Data | midiS1Status | midiS2Data | midiS2Status =>
    exact consumeByte_raisesOrCompletes h
  | avail =>
    cases h
    exact .inr fun _ hcount => nomatch hcount
  | push | onmidi | tick | pins =>
    cases h
    exact raisesOrCompletes_done s _
  | reserved op rest =>
    cases h
    exact raisesOrCompletes_raise _ s

end

/-- Settles O52: taking an event leaves the set as it was, and no effect of an operation removes an entry. -/
theorem stickySetOnlyGrows : Obligations.StickySetOnlyGrows := fun _ _ hstep e h =>
  step_keeps (P := fun s => e ∈ s.sticky) (fun _ _ h => h) (fun _ _ h => mem_stickyInsert h)
    (fun _ _ _ h hexec => opEffect_mem_sticky h (exec_effect hexec)) h hstep

/-- Settles O53: a state that an operation answers has an outcome raised and nothing else changed, or its result is no outcome. -/
theorem raisedOutcomesChangeNothingElse : Obligations.RaisedOutcomesChangeNothingElse := fun _ _ _ _ hexec =>
  eq_recorded_of_result (exec_raisesOrCompletes hexec)

/-! ### The receive interrupt (R308) -/

/-- Settles O18: a full buffer drops the byte; otherwise PUSH writes `head`, `count` and the one cell at the advanced head. -/
theorem receiveInterruptTouchesOnlyTheRing : Obligations.ReceiveInterruptTouchesOnlyTheRing := by
  intro b s
  by_cases hfull : s.count = s.params.rbCap
  · exact ⟨_, exec_push_full b hfull, rfl, fun _ => ⟨rfl, rfl, rfl⟩, fun hroom => absurd hfull hroom, fun _ _ => rfl⟩
  · exact ⟨_, exec_push_room b hfull, rfl, fun h => absurd h hfull,
      fun _ => ⟨rfl, rfl, memory_read_write_same _ _ b⟩, fun _ haddr => memory_read_write_ne _ b haddr⟩

end Sys2Proof.Proofs
end

section
/-! PROOFS. RESET: refused on a configuration with a reserved bit set (R343, R41), and otherwise the reset state (R340-R342, R58). -/

namespace Sys2Proof.Proofs

open Sys2Proof Sys2Proof.Machine Sys2Proof.Spec

section
variable {s : State}

/-! ### The configuration check (R343; log 16) -/

theorem badConfigSlot_eq_none_iff (p : Params) :
    badConfigSlot p = none ↔ ∀ k, k < p.nSlots → cfgReservedSet p k = false := by
  simp [badConfigSlot]

/-- The slot the check answers is the first with a reserved bit set. -/
theorem badConfigSlot_eq_some_iff (p : Params) (k : Nat) :
    badConfigSlot p = some k ↔
      k < p.nSlots ∧ cfgReservedSet p k = true ∧ ∀ j, j < k → cfgReservedSet p j = false := by
  simp [badConfigSlot, List.find?_range_eq_some, and_left_comm]

theorem exec_reset_legal (ch : BitVec 4) (hlegal : badConfigSlot s.params = none) :
    exec (.reset ch) s = .next (done (resetTo ch s)) := by
  show execReset ch s = _
  rw [execReset, hlegal]

theorem exec_reset_badConfig (ch : BitVec 4) {k : Nat} (hbad : badConfigSlot s.params = some k) :
    exec (.reset ch) s = .next (recorded (.config k) s) := by
  show execReset ch s = _
  rw [execReset, hbad, ← raise_eq_recorded]

end

/-! ### The slot vectors after a reset (R341, R342) -/

theorem getLsbD_resetIsOn (p : Params) (snap : SlotBits) {m : Nat} (hm : m < 16) :
    (resetIsOn p snap).getLsbD m = (decide (m < p.nSlots) && !isMomentary p m && !snap.getLsbD m) := by
  simp [resetIsOn, rawPressed, hm]

/-- No slot with `is_on` set after a reset is momentary or missing, so the indicators copy `is_on` without asking for either. -/
theorem getLsbD_resetInd (p : Params) (snap : SlotBits) {m : Nat} (hm : m < 16) :
    (resetInd p (resetIsOn p snap)).getLsbD m =
      (p.bootShowLatch && hasIndicator p m && (resetIsOn p snap).getLsbD m) := by
  rw [resetInd, getLsbD_slotBits, getLsbD_resetIsOn p snap hm]
  by_cases hslot : m < p.nSlots
  · cases isMomentary p m <;> simp [hm, hslot]
  · simp [hslot]

/-- Settles O42: the first slot with a reserved bit set is the one the check answers. -/
theorem resetRefusesABadConfiguration : Obligations.ResetRefusesABadConfiguration :=
  fun ch s k hslot hset hfirst =>
    exec_reset_badConfig ch ((badConfigSlot_eq_some_iff s.params k).mpr ⟨hslot, hset, hfirst⟩)

/-- Settles O41: on a legal configuration the check answers no slot, and the two slot vectors are the model's, read bit by bit. -/
theorem resetLeavesTheResetState : Obligations.ResetLeavesTheResetState := fun ch s hlegal =>
  ⟨resetIsOn s.params s.pins, resetInd s.params (resetIsOn s.params s.pins), fun _ => getLsbD_resetIsOn _ _,
    fun _ => getLsbD_resetInd _ _, exec_reset_legal ch ((badConfigSlot_eq_none_iff s.params).mpr hlegal)⟩

end Sys2Proof.Proofs
end
